-- ==== Sys2Proof/Word.lean ====
section
/-! DEFINITION. The two word widths of the block: the byte (00_scope.md R8: 8 bits, unsigned) and the 16-bit value
of particulate fields, device identifiers and port fields (30_encoding.md R65, R66, R74, R75). -/

namespace Sys2Proof

/-- A byte of the wire (R8). -/
abbrev Byte := BitVec 8

/-- A 16-bit unsigned value (R65, R66). -/
abbrev Half := BitVec 16

end Sys2Proof
end

