-- ==== Sys2Proof/Config.lean ====
section
/-! DEFINITION. The configuration of one instance (00_scope.md R5, R6, R7): three parameters the spec leaves OPEN
(92_eei_decisions.md D2, D3, D10). They are plain data that the state carries and no transaction changes
(70_reset_and_hazards.md R232; log 1), so a statement over every state holds for every configuration. -/

namespace Sys2Proof

/-- `FRAMING_MODE` (R5): which framing algorithm the frame synchronizer runs. -/
inductive FramingMode where
  /-- command/response mode, encoded 0 -/
  | cr
  /-- continuous streaming mode, encoded 1 -/
  | stream
  deriving DecidableEq, Repr

/-- The parameters of an instance. -/
structure Config where
  /-- `FRAMING_MODE` (R5) -/
  framingMode : FramingMode
  /-- `BUF_CAP` (R6): `none` is the infinite capacity the source describes -/
  bufCap : Option Nat
  /-- `TS_WIDTH` (R7): the width in bits of a timestamp -/
  tsWidth : Nat
  deriving DecidableEq, Repr

/-- R6: a finite `BUF_CAP` is at least 1. -/
abbrev Config.wf (c : Config) : Prop := c.bufCap ≠ some 0

/-- The configuration that `State.reset` takes: CR (the value encoded 0), the unbounded buffer of the source, and
a 32-bit timestamp. DESIGN CHOICE (log 2): the spec leaves all three open. -/
def Config.default : Config := { framingMode := .cr, bufCap := none, tsWidth := 32 }

end Sys2Proof
end

