-- ==== Sys2Proof/Syntax.lean ====
section
/-! DEFINITION. The instructions of the block: one constructor for each of the 20 rows of spec/opcode_table.json, and
the forms in which they reach the block: the port signals of 30_encoding.md R74 and the wire frames of R60. -/

namespace Sys2Proof

/-- The instructions. Rows of format TXN and CMD are host transactions (30_encoding.md R74); rows of format RSP are
what the response decoder runs on an accepted candidate (R67) and STRM.READOUT is what the streaming decoder runs on
an extracted frame (R63). The operands of a response row are the frame bytes the table of R61 says it reads. -/
inductive Instr where
  /-- RESET (R230) -/
  | reset
  /-- LINK_OPEN (R190) -/
  | linkOpen
  /-- LINK_FAIL (R191) -/
  | linkFail
  /-- PUSH_CHUNK.CR (R101): one chunk delivered to an instance in command/response mode -/
  | pushChunkCr (c : List Byte)
  /-- PUSH_CHUNK.STREAM (R110): one chunk delivered to an instance in streaming mode -/
  | pushChunkStream (c : List Byte)
  /-- CMD.QueryVersion (R163) -/
  | cmdQueryVersion
  /-- CMD.SetReportingMode (R164) -/
  | cmdSetReportingMode (active : Bool)
  /-- CMD.QueryData (R165) -/
  | cmdQueryData
  /-- CMD.SetDeviceId (R166) -/
  | cmdSetDeviceId (id : Half)
  /-- CMD.SetPowerMode (R167) -/
  | cmdSetPowerMode (sleep : Bool)
  /-- CMD.SetCycle (R168): `n` is any natural number -/
  | cmdSetCycle (n : Nat)
  /-- CMD.reserved (R169): a command-port tag that names no command -/
  | cmdReserved (tag : BitVec 3) (arg : Half)
  /-- RSP.Readout (R132) -/
  | rspReadout (pm10Lo pm10Hi pm25Lo pm25Hi id1 id2 : Byte)
  /-- RSP.Version (R133) -/
  | rspVersion (year month day id1 id2 : Byte)
  /-- RSP.ReportingMode (R134): `mode` is frame byte 4 -/
  | rspReportingMode (mode : Byte)
  /-- RSP.DeviceIdChanged (R135) -/
  | rspDeviceIdChanged (id1 id2 : Byte)
  /-- RSP.PowerMode (R136): `mode` is frame byte 4 -/
  | rspPowerMode (mode : Byte)
  /-- RSP.Cycle (R137) -/
  | rspCycle (minutes : Byte)
  /-- RSP.Unknown (R138): the whole candidate -/
  | rspUnknown (rawBytes : List Byte)
  /-- STRM.READOUT (R142): payload bytes 0 to 3 -/
  | strmReadout (pm10Lo pm10Hi pm25Lo pm25Hi : Byte)
  deriving DecidableEq, Repr

/-- The rows of the response opcode map (R67), in table order. -/
inductive RspRow where
  | readout
  | version
  | reportingMode
  | deviceIdChanged
  | powerMode
  | cycle
  | unknown
  deriving DecidableEq, Repr

/-- One beat of the `rx` port (R74) but for its `rx_eoc`, which its place in an `RxChunk` gives. -/
structure RxBeat where
  /-- `rx_valid` -/
  valid : Bool
  /-- `rx_data[7:0]` -/
  data : Byte
  deriving DecidableEq, Repr

/-- The beats of the `rx` port since the previous end of chunk, up to the beat that ends the chunk (R74). -/
structure RxChunk where
  /-- the beats with `rx_eoc = 0`, oldest first -/
  body : List RxBeat
  /-- the beat with `rx_eoc = 1` -/
  last : RxBeat
  deriving DecidableEq, Repr

/-- The command port (R74): `cmd_tag[2:0]` and `cmd_arg[15:0]` of a beat with `cmd_valid = 1`. -/
structure CmdPort where
  tag : BitVec 3
  arg : Half
  deriving DecidableEq, Repr

/-- What the host presents on the input ports in one cycle (R74): the strobes, a chunk that ends in this cycle, a
command, the value on the `now` input, and how far its consumer goes with the outputs: the number of event beats it has
accepted with `evt_ready` and of transmit bytes with `tx_ready` before a transaction of this cycle is taken, `none` for
all that are offered (70_reset_and_hazards.md R239; log 16). -/
structure PortCycle where
  now : Nat := 0
  rst : Bool := false
  linkFail : Bool := false
  linkOpen : Bool := false
  rx : Option RxChunk := none
  cmd : Option CmdPort := none
  evtTake : Option Nat := none
  txTake : Option Nat := none
  deriving DecidableEq, Repr

/-- An encoded instruction: port signals, read in the framing mode of the instance (R71), or a wire frame in one of
the three formats of R60. -/
inductive Encoded where
  /-- format TXN: port signals -/
  | txn (mode : FramingMode) (p : PortCycle)
  /-- format CMD: a command frame (R64) -/
  | cmd (t : List Byte)
  /-- format RSP: a response frame (R61) -/
  | rsp (f : List Byte)
  /-- format STRM: a streaming frame (R63) -/
  | strm (s : List Byte)
  deriving DecidableEq, Repr

/-- Why the decoder rejects a wire frame or a cycle of port signals. -/
inductive DecodeError where
  /-- the cycle presents no transaction (R74) -/
  | noTransaction
  /-- an RSP candidate of fewer than 5 bytes (R103) -/
  | tooShort
  /-- a STRM frame that is not 10 bytes long, or a CMD frame that is not 17 (R76) -/
  | badLength
  /-- the start marker is missing (R61, R63, R64) -/
  | badStartMarker
  /-- the end marker is missing (R61, R64) -/
  | badEndMarker
  /-- the checksum byte is wrong (R105, R161) -/
  | badChecksum
  /-- the body of a CMD frame is none of the six templates (R68) -/
  | unknownCommand
  deriving DecidableEq, Repr

end Sys2Proof
end

