-- ==== Sys2Proof/Machine/Operands.lean ====
section
/-! DEFINITION. Operand forms: byte positions and slices (00_scope.md R10), field assembly (R12, R65, R66), the two
checksums (R105, R161), the grades (R143) and the frames of the command encoder (R64, R68). All of them are pure
functions of their operands (20_memory.md R46). -/

namespace Sys2Proof.Machine

/-! ### Byte sequences (R10) -/

/-- `s[i]`. The spec reads no index past the end (R40, R139), so the value there (0) is never used (log 18). -/
def byteAt (s : List Byte) (i : Nat) : Byte := s.getD i 0

/-- `s[i..j)`. -/
def slice (s : List Byte) (i j : Nat) : List Byte := (s.take j).drop i

/-- `sum8(s)`: the sum of the bytes modulo 256. -/
def sum8 (s : List Byte) : Byte := BitVec.ofNat 8 (s.map BitVec.toNat).sum

/-! ### Field assembly -/

/-- `U16LE(lo, hi) = hi·256 + lo` (R12). -/
def u16le (lo hi : Byte) : Half := BitVec.ofNat 16 (hi.toNat * 256 + lo.toNat)

/-- `DEVID(a, b) = a·256 + b` (R66). -/
def devid (a b : Byte) : Half := BitVec.ofNat 16 (a.toNat * 256 + b.toNat)

/-- `v[15:8]`. -/
def hiByte (v : Half) : Byte := BitVec.ofNat 8 (v.toNat / 256)

/-- `v[7:0]`. -/
def loByte (v : Half) : Byte := BitVec.ofNat 8 v.toNat

/-! ### Markers and checksum of a response candidate -/

/-- The marker test (R104): `f[0] = 0xAA` and `f[L-1] = 0xAB`. -/
def markersOk (f : List Byte) : Bool := byteAt f 0 == 0xAA && byteAt f (f.length - 1) == 0xAB

/-- The checksum validator `CS_OK(f)` (R105). -/
def csOk (f : List Byte) : Bool := sum8 (slice f 1 (f.length - 2)) == byteAt f (f.length - 2)

/-- A candidate the synchronizer passes to the response decoder (R107): long enough, markers and checksum right. -/
def candidateOk (f : List Byte) : Bool := 5 ≤ f.length && markersOk f && csOk f

/-- The row of the response opcode map a candidate selects: the conditions of R131, tried in order. -/
def rspRow (f : List Byte) : RspRow :=
  if byteAt f 1 = 0xC0 ∧ f.length = 10 then .readout
  else if byteAt f 1 = 0xC5 ∧ byteAt f 2 = 0x07 ∧ 8 ≤ f.length then .version
  else if byteAt f 1 = 0xC5 ∧ byteAt f 2 = 0x02 then .reportingMode
  else if byteAt f 1 = 0xC5 ∧ byteAt f 2 = 0x05 ∧ 8 ≤ f.length then .deviceIdChanged
  else if byteAt f 1 = 0xC5 ∧ byteAt f 2 = 0x06 then .powerMode
  else if byteAt f 1 = 0xC5 ∧ byteAt f 2 = 0x08 then .cycle
  else .unknown

/-! ### Grades (R143) -/

/-- The finite upper bounds of the PM10 bands, in tenths; the sixth bound is infinite. -/
def bounds10 : List Nat := [200, 600, 1000, 1400, 2000]

/-- The finite upper bounds of the PM2.5 bands, in tenths; the sixth bound is infinite. -/
def bounds25 : List Nat := [120, 360, 600, 840, 1200]

/-- The first band whose upper bound strictly exceeds `raw`; the band after the last finite bound if none does. -/
def gradeIn (bounds : List Nat) (raw : Half) : Fin (bounds.length + 1) :=
  ⟨bounds.findIdx (fun b => raw.toNat < b), Nat.lt_succ_of_le List.findIdx_le_length⟩

/-- `GRADE10(raw)`. -/
def grade10 (raw : Half) : Fin 6 := gradeIn bounds10 raw

/-- `GRADE25(raw)`. -/
def grade25 (raw : Half) : Fin 6 := gradeIn bounds25 raw

/-! ### Command frames -/

/-- `[0xAA] ++ b ++ [sum8(b), 0xAB]` (R160, R161). -/
def cmdFrame (b : List Byte) : List Byte := 0xAA :: (b ++ [sum8 b, 0xAB])

/-- The 14-byte body template (R64, R162): the command-group byte, the four fields a command sets, the rest zero. -/
def cmdBody (subtype select value id1 id2 : Byte) : List Byte :=
  [0xB4, subtype, select, value, 0, 0, 0, 0, 0, 0, 0, 0, id1, id2]

/-- The body of QueryVersion (R163). -/
def bodyQueryVersion : List Byte := cmdBody 0x07 0x00 0x00 0x00 0x00

/-- The body of SetReportingMode (R164): the value is 0 for active, 1 for inactive. -/
def bodySetReportingMode (active : Bool) : List Byte := cmdBody 0x02 0x01 (if active then 0x00 else 0x01) 0x00 0x00

/-- The body of QueryData (R165). Its subtype is general knowledge of the spec's own, G1 (log 19). -/
def bodyQueryData : List Byte := cmdBody 0x04 0x00 0x00 0x00 0x00

/-- The body of SetDeviceId (R166): the identifier goes high byte first. -/
def bodySetDeviceId (id : Half) : List Byte := cmdBody 0x05 0x00 0x00 (hiByte id) (loByte id)

/-- The body of SetPowerMode (R167): the value is 0 for sleep, 1 for work. -/
def bodySetPowerMode (sleep : Bool) : List Byte := cmdBody 0x06 0x01 (if sleep then 0x00 else 0x01) 0x00 0x00

/-- The body of SetCycle (R168): the value is `n mod 256`, with no range check (R170). -/
def bodySetCycle (n : Nat) : List Byte := cmdBody 0x08 0x01 (BitVec.ofNat 8 n) 0x00 0x00

end Sys2Proof.Machine
end

