-- ==== Sys2Proof/WellFormed.lean ====
section
/-! DEFINITION. Well-formed instructions: those some encoding of the spec carries. Most operands are of the width of
their field, so only four rows have a check. -/

namespace Sys2Proof

/-- The checks. `SetCycle` runs for every natural number (R168); what its one-byte field can carry is a number below
256. -/
def Instr.wellFormed : Instr → Bool
  | .reset => true
  | .linkOpen => true
  | .linkFail => true
  | .pushChunkCr _ => true
  | .pushChunkStream _ => true
  | .cmdQueryVersion => true
  | .cmdSetReportingMode _ => true
  | .cmdQueryData => true
  | .cmdSetDeviceId _ => true
  | .cmdSetPowerMode _ => true
  | .cmdSetCycle n => decide (n < 256)
  | .cmdReserved tag _ => decide (6 ≤ tag.toNat)
  | .rspReadout _ _ _ _ _ _ => true
  | .rspVersion _ _ _ _ _ => true
  | .rspReportingMode _ => true
  | .rspDeviceIdChanged _ _ => true
  | .rspPowerMode _ => true
  | .rspCycle _ => true
  | .rspUnknown rawBytes => Machine.candidateOk rawBytes && decide (Machine.rspRow rawBytes = .unknown)
  | .strmReadout _ _ _ _ => true

/-- The instruction is well-formed. -/
abbrev WellFormed (i : Instr) : Prop := i.wellFormed = true

end Sys2Proof
end

