-- ==== Sys2Proof/Decode.lean ====
section
/-! DEFINITION. The decoder, total on any bytes and any port signals and rejecting by name, and after it the encoder.
Received bytes and commands reach the block in the forms of 30_encoding.md R60 (wire frames) and R74 (port signals);
`decode` reads both. -/

namespace Sys2Proof

open Machine

/-! ### Port signals (R74) -/

/-- The bytes of a chunk: those of its beats with `rx_valid = 1`, in order; the last beat may add none (R74). -/
def RxChunk.bytes (ch : RxChunk) : List Byte :=
  ((ch.body ++ [ch.last]).filter (fun b => b.valid)).map (fun b => b.data)

/-- The command port map (R68, R70): argument bits a command does not use are ignored; tags 6 and 7 are reserved. -/
def decodeCmdPort (tag : BitVec 3) (arg : Half) : Instr :=
  if tag = 0 then .cmdQueryVersion
  else if tag = 1 then .cmdSetReportingMode (arg.getLsbD 0)
  else if tag = 2 then .cmdQueryData
  else if tag = 3 then .cmdSetDeviceId arg
  else if tag = 4 then .cmdSetPowerMode (arg.getLsbD 0)
  else if tag = 5 then .cmdSetCycle (loByte arg).toNat
  else .cmdReserved tag arg

/-- The row of the `PUSH_CHUNK` transaction that the framing mode selects (R71, R100). -/
def pushChunkRow (mode : FramingMode) (c : List Byte) : Instr :=
  match mode with
  | .cr => .pushChunkCr c
  | .stream => .pushChunkStream c

/-- The next transaction of a cycle and what the cycle then still presents. Strobes of one cycle are successive
transactions in the order RESET, LINK_FAIL, LINK_OPEN, PUSH_CHUNK, ENCODE (R206). -/
def nextTxn (mode : FramingMode) (p : PortCycle) : Option (Instr × PortCycle) :=
  if p.rst then some (.reset, { p with rst := false })
  else if p.linkFail then some (.linkFail, { p with linkFail := false })
  else if p.linkOpen then some (.linkOpen, { p with linkOpen := false })
  else match p.rx with
    | some ch => some (pushChunkRow mode ch.bytes, { p with rx := none })
    | none =>
      match p.cmd with
      | some c => some (decodeCmdPort c.tag c.arg, { p with cmd := none })
      | none => none

/-- The cycle presents no transaction. -/
def PortCycle.idle (p : PortCycle) : Bool :=
  !p.rst && !p.linkFail && !p.linkOpen && p.rx.isNone && p.cmd.isNone

/-- What is left to process of a cycle: nothing once it presents no transaction. -/
def PortCycle.rest (p : PortCycle) : List PortCycle := if p.idle then [] else [p]

/-! ### Response frames (R61, R67) -/

/-- The instruction a row of the response map reads from a candidate: the bytes of R61's table (R132 to R138). -/
def rspInstr (row : RspRow) (f : List Byte) : Instr :=
  match row with
  | .readout => .rspReadout (byteAt f 2) (byteAt f 3) (byteAt f 4) (byteAt f 5) (byteAt f 6) (byteAt f 7)
  | .version => .rspVersion (byteAt f 3) (byteAt f 4) (byteAt f 5) (byteAt f 6) (byteAt f 7)
  | .reportingMode => .rspReportingMode (byteAt f 4)
  | .deviceIdChanged => .rspDeviceIdChanged (byteAt f 6) (byteAt f 7)
  | .powerMode => .rspPowerMode (byteAt f 4)
  | .cycle => .rspCycle (byteAt f 4)
  | .unknown => .rspUnknown f

/-- The response decoder's choice for a candidate (R131): it is total and does not re-validate (R130). -/
def decodeCandidate (f : List Byte) : Instr := rspInstr (rspRow f) f

/-- An RSP frame: length, markers and checksum as the synchronizer tests them (R103, R104, R105), then R131. -/
def decodeRsp (f : List Byte) : Except DecodeError Instr :=
  if f.length < 5 then .error .tooShort
  else if byteAt f 0 ≠ 0xAA then .error .badStartMarker
  else if byteAt f (f.length - 1) ≠ 0xAB then .error .badEndMarker
  else if csOk f = false then .error .badChecksum
  else .ok (decodeCandidate f)

/-! ### Streaming frames (R63) -/

/-- The instruction of an 8-byte payload: bytes 0 to 3 (R142); bytes 4 to 7 are not read. -/
def payloadInstr (p : List Byte) : Instr := .strmReadout (byteAt p 0) (byteAt p 1) (byteAt p 2) (byteAt p 3)

/-- A STRM frame: 10 bytes that start with the marker; nothing else is validated (R63, R116). -/
def decodeStrm (s : List Byte) : Except DecodeError Instr :=
  if s.length ≠ 10 then .error .badLength
  else if byteAt s 0 ≠ 0xAA ∨ byteAt s 1 ≠ 0xC0 then .error .badStartMarker
  else .ok (payloadInstr (slice s 2 10))

/-! ### Command frames (R64, R68), by the match and mask columns of spec/opcode_table.json -/

/-- A row's pattern: `some b` for a byte the row's mask fixes, `none` for one it leaves to an operand. -/
abbrev FramePattern := List (Option Byte)

/-- The bytes fit the pattern. -/
def fitsPattern : FramePattern → List Byte → Bool
  | [], [] => true
  | none :: ps, _ :: bs => fitsPattern ps bs
  | some p :: ps, b :: bs => b == p && fitsPattern ps bs
  | [], _ :: _ => false
  | _ :: _, [] => false

/-- Row CMD.QueryVersion. -/
def patQueryVersion : FramePattern :=
  [some 0xAA, some 0xB4, some 0x07, some 0x00, some 0x00, some 0x00, some 0x00, some 0x00, some 0x00, some 0x00,
   some 0x00, some 0x00, some 0x00, some 0x00, some 0x00, some 0xBB, some 0xAB]

/-- Row CMD.SetReportingMode. -/
def patSetReportingMode : FramePattern :=
  [some 0xAA, some 0xB4, some 0x02, some 0x01, none, some 0x00, some 0x00, some 0x00, some 0x00, some 0x00,
   some 0x00, some 0x00, some 0x00, some 0x00, some 0x00, none, some 0xAB]

/-- Row CMD.QueryData. -/
def patQueryData : FramePattern :=
  [some 0xAA, some 0xB4, some 0x04, some 0x00, some 0x00, some 0x00, some 0x00, some 0x00, some 0x00, some 0x00,
   some 0x00, some 0x00, some 0x00, some 0x00, some 0x00, some 0xB8, some 0xAB]

/-- Row CMD.SetDeviceId. -/
def patSetDeviceId : FramePattern :=
  [some 0xAA, some 0xB4, some 0x05, some 0x00, some 0x00, some 0x00, some 0x00, some 0x00, some 0x00, some 0x00,
   some 0x00, some 0x00, some 0x00, none, none, none, some 0xAB]

/-- Row CMD.SetPowerMode. -/
def patSetPowerMode : FramePattern :=
  [some 0xAA, some 0xB4, some 0x06, some 0x01, none, some 0x00, some 0x00, some 0x00, some 0x00, some 0x00,
   some 0x00, some 0x00, some 0x00, some 0x00, some 0x00, none, some 0xAB]

/-- Row CMD.SetCycle. -/
def patSetCycle : FramePattern :=
  [some 0xAA, some 0xB4, some 0x08, some 0x01, none, some 0x00, some 0x00, some 0x00, some 0x00, some 0x00,
   some 0x00, some 0x00, some 0x00, some 0x00, some 0x00, none, some 0xAB]

/-- The value byte of SetReportingMode and SetPowerMode is 0 or 1 (R164, R167). -/
def twoValued (b : Byte) : Bool := b == 0x00 || b == 0x01

/-- A CMD frame: length, markers and checksum (R64), then the row its pattern selects (R68). The block itself only
makes these frames; it never reads one as a command (R172; log 14). -/
def decodeCmd (t : List Byte) : Except DecodeError Instr :=
  if t.length ≠ 17 then .error .badLength
  else if byteAt t 0 ≠ 0xAA then .error .badStartMarker
  else if byteAt t 16 ≠ 0xAB then .error .badEndMarker
  else if sum8 (slice t 1 15) ≠ byteAt t 15 then .error .badChecksum
  else if fitsPattern patQueryVersion t then .ok .cmdQueryVersion
  else if fitsPattern patSetReportingMode t && twoValued (byteAt t 4) then .ok (.cmdSetReportingMode (byteAt t 4 == 0x00))
  else if fitsPattern patQueryData t then .ok .cmdQueryData
  else if fitsPattern patSetDeviceId t then .ok (.cmdSetDeviceId (devid (byteAt t 13) (byteAt t 14)))
  else if fitsPattern patSetPowerMode t && twoValued (byteAt t 4) then .ok (.cmdSetPowerMode (byteAt t 4 == 0x00))
  else if fitsPattern patSetCycle t then .ok (.cmdSetCycle (byteAt t 4).toNat)
  else .error .unknownCommand

/-! ### The decoder -/

/-- The instruction an encoded form stands for; for port signals, the first transaction of the cycle. -/
def decode : Encoded → Except DecodeError Instr
  | .txn mode p =>
    match nextTxn mode p with
    | some (i, _) => .ok i
    | none => .error .noTransaction
  | .cmd t => decodeCmd t
  | .rsp f => decodeRsp f
  | .strm s => decodeStrm s

/-! ### The encoder -/

/-- A chunk as beats: one beat a byte, closed by a beat without a byte (R74). -/
def RxChunk.ofBytes (c : List Byte) : RxChunk :=
  { body := c.map (fun b => { valid := true, data := b }), last := { valid := false, data := 0 } }

/-- A response frame: start marker, the bytes after it, their checksum, end marker (R61, R105). -/
def rspFrame (b : List Byte) : List Byte := 0xAA :: (b ++ [sum8 b, 0xAB])

/-- The value of a flag as bit 0 of a port argument (R68). Bits 15..1, which are ignored (R70), are 0: DESIGN CHOICE
(log 13). -/
def flagArg (b : Bool) : Half := if b then 1 else 0

/-- The command port's signals for a command (R68, R74), `none` for an instruction that is none. The argument bits the
command does not use are 0: DESIGN CHOICE (log 13), R70 says only that they are ignored. -/
def encodeCmdPort : Instr → Option CmdPort
  | .cmdQueryVersion => some { tag := 0, arg := 0 }
  | .cmdSetReportingMode active => some { tag := 1, arg := flagArg active }
  | .cmdQueryData => some { tag := 2, arg := 0 }
  | .cmdSetDeviceId id => some { tag := 3, arg := id }
  | .cmdSetPowerMode sleep => some { tag := 4, arg := flagArg sleep }
  | .cmdSetCycle n => some { tag := 5, arg := BitVec.ofNat 16 (n % 256) }
  | .cmdReserved tag arg => some { tag := tag, arg := arg }
  | .reset => none
  | .linkOpen => none
  | .linkFail => none
  | .pushChunkCr _ => none
  | .pushChunkStream _ => none
  | .rspReadout _ _ _ _ _ _ => none
  | .rspVersion _ _ _ _ _ => none
  | .rspReportingMode _ => none
  | .rspDeviceIdChanged _ _ => none
  | .rspPowerMode _ => none
  | .rspCycle _ => none
  | .rspUnknown _ => none
  | .strmReadout _ _ _ _ => none

/-- The encoding of an instruction. A response row is written as the nominal 10-byte frame of R61 with the bytes the
row does not read at zero (log 13); Unknown is its own bytes. -/
def encode : Instr → Encoded
  | .reset => .txn .cr { rst := true }
  | .linkOpen => .txn .cr { linkOpen := true }
  | .linkFail => .txn .cr { linkFail := true }
  | .pushChunkCr c => .txn .cr { rx := some (RxChunk.ofBytes c) }
  | .pushChunkStream c => .txn .stream { rx := some (RxChunk.ofBytes c) }
  | .cmdQueryVersion => .cmd (cmdFrame bodyQueryVersion)
  | .cmdSetReportingMode active => .cmd (cmdFrame (bodySetReportingMode active))
  | .cmdQueryData => .cmd (cmdFrame bodyQueryData)
  | .cmdSetDeviceId id => .cmd (cmdFrame (bodySetDeviceId id))
  | .cmdSetPowerMode sleep => .cmd (cmdFrame (bodySetPowerMode sleep))
  | .cmdSetCycle n => .cmd (cmdFrame (bodySetCycle n))
  | .cmdReserved tag arg => .txn .cr { cmd := some { tag := tag, arg := arg } }
  | .rspReadout a b c d i j => .rsp (rspFrame [0xC0, a, b, c, d, i, j])
  | .rspVersion y m d i j => .rsp (rspFrame [0xC5, 0x07, y, m, d, i, j])
  | .rspReportingMode v => .rsp (rspFrame [0xC5, 0x02, 0, v, 0, 0, 0])
  | .rspDeviceIdChanged i j => .rsp (rspFrame [0xC5, 0x05, 0, 0, 0, i, j])
  | .rspPowerMode v => .rsp (rspFrame [0xC5, 0x06, 0, v, 0, 0, 0])
  | .rspCycle v => .rsp (rspFrame [0xC5, 0x08, 0, v, 0, 0, 0])
  | .rspUnknown rawBytes => .rsp rawBytes
  | .strmReadout a b c d => .strm [0xAA, 0xC0, a, b, c, d, 0, 0, 0, 0]

/-! ### The host's table words -/

/-- The bytes of a table word: the first byte is bits 7..0. -/
def bytesOfWord : Nat → Nat → List Byte
  | 0, _ => []
  | n + 1, w => BitVec.ofNat 8 w :: bytesOfWord n (w / 256)

/-- The bytes of a table word, first byte first. The table writes a frame as one string of hexadecimal digits with
the first byte leftmost; a word that is that string read as a number has its `0xAA` on top and is turned round
(log 12). -/
def tableBytes (n w : Nat) : List Byte :=
  let b := bytesOfWord n w
  if byteAt b 0 = 0xAA then b else b.reverse

/-- The wire frame of a table word. The table gives an RSP row bytes 0 to 2 of a frame of nominal length 10 and a CMD
row 17 bytes; checksum and end marker are no operands, so they are set as the format demands (log 12). -/
def tableFrame (nbits w : Nat) : Option Encoded :=
  if nbits = 24 then some (.rsp (rspFrame (slice (tableBytes 3 w) 1 3 ++ [0, 0, 0, 0, 0])))
  else if nbits = 80 then some (.strm (tableBytes 10 w))
  else if nbits = 136 then some (.cmd (cmdFrame (slice (tableBytes 17 w) 1 15)))
  else none

/-- The instruction the decoder reads from a word of spec/opcode_table.json. Rows of format TXN have no word: their
encoding is port signals. -/
def decodeTableWord (nbits w : Nat) : Option Instr :=
  match tableFrame nbits w with
  | some e => (decode e).toOption
  | none => none

end Sys2Proof
end

