-- ==== Sys2Proof/Machine/State.lean ====
section
/-! DEFINITION. The state of the block as plain data (10_state.md R20), its events (R29, 30_encoding.md R75), the
reasons a step can stop (60_exceptions.md R204, R205) and the state after reset (70_reset_and_hazards.md R231). -/

namespace Sys2Proof.Machine

/-- `LINK` (R24). -/
inductive Link where
  /-- the transport has not yet reported open -/
  | init
  /-- the transport has reported open and `READY` has been emitted -/
  | ready
  /-- the transport reported a failure -/
  | failed
  deriving DecidableEq, Repr

/-- The codes of the `ERROR` event (R201). The other 255 codes are reserved and never emitted, so they have no
constructor. -/
inductive ErrorCode where
  /-- code 0x01 -/
  | linkFail
  deriving DecidableEq, Repr

/-- A decoded response (41_decoder.md R132 to R138). Particulate values are in tenths (R140); a timestamp is a number
of `TS_WIDTH` bits. -/
inductive Response where
  | readout (pm10 pm25 deviceId : Half) (timestamp : Nat)
  | version (year month day : Byte) (deviceId : Half)
  | reportingMode (active : Bool)
  | deviceIdChanged (deviceId : Half)
  | powerMode (sleeping : Bool)
  | cycle (intervalMinutes : Byte)
  | unknown (rawBytes : List Byte)
  deriving DecidableEq, Repr

/-- An event record (R29). Grades are band indices 0 to 5 (R143). -/
inductive Event where
  | ready
  | error (code : ErrorCode)
  | response (r : Response)
  | readout (pm10 pm25 : Half) (g10 g25 : Fin 6)
  deriving DecidableEq, Repr

/-- The state. `link`, `buf`, `ovf` and `illegalCmd` are the block's state (R20); `evq` and `txq` its observation;
`evtTaken` and `txTaken` say how far the output ports have delivered it (70_reset_and_hazards.md R239); `cfg` its
parameters; `now` and `inputs` hold what the host presents (R34, R74). -/
structure State where
  /-- `LINK` (R24) -/
  link : Link
  /-- `BUF` (R25), oldest byte first -/
  buf : List Byte
  /-- `OVF` (R26) -/
  ovf : Bool
  /-- `ILLEGAL_CMD` (R27) -/
  illegalCmd : Bool
  /-- `EVQ` (R29), oldest event first -/
  evq : List Event
  /-- `TXQ` (R30), first byte first -/
  txq : List Byte
  /-- the place of the event port in the beats of `EVQ` (R74, R75): how many beats have left it (log 16) -/
  evtTaken : Nat
  /-- the place of the transmit port in `TXQ` (R74): how many bytes have left it (log 16) -/
  txTaken : Nat
  /-- `FRAMING_MODE`, `BUF_CAP`, `TS_WIDTH` (R5 to R7, R232) -/
  cfg : Config
  /-- the value on the `now` input for the current transaction (R34; log 3) -/
  now : Nat
  /-- what the host presents on the input ports, next cycle first (R74; the model's own field, log 5) -/
  inputs : List PortCycle
  deriving DecidableEq, Repr

/-- Why a step faults. -/
inductive Fault where
  /-- The `OVF` fault (R102, R204), raised by PUSH_CHUNK.CR and PUSH_CHUNK.STREAM when the chunk would exceed
  `BUF_CAP`; it carries the faulted state, in which `OVF = 1`. Safe: the spec's own outcome (log 7). -/
  | ovf (after : State)
  deriving DecidableEq, Repr

/-- Why a step is refused. -/
inductive Refusal where
  /-- Raised by a refused arm of `exec` for an instruction without a meaning; no arm raises it. Safe. -/
  | notModelled (mnemonic : String)
  /-- The `ILLEGAL_CMD` refusal (R169, R205), raised by CMD.reserved; it carries the refused state, in which
  `ILLEGAL_CMD = 1`. Safe: the spec's own outcome (log 8). -/
  | illegalCmd (after : State)
  deriving DecidableEq, Repr

/-- The state just after reset of an instance with configuration `cfg` at power-up (R231): nothing emitted,
transmitted or presented yet (log 4), so both output ports are idle. -/
def State.resetWith (cfg : Config) : State :=
  { link := .init, buf := [], ovf := false, illegalCmd := false, evq := [], txq := [], evtTaken := 0, txTaken := 0,
    cfg := cfg, now := 0, inputs := [] }

/-- The state right after reset (R231), for the configuration of `Config.default` (log 2). -/
def State.reset : State := State.resetWith Config.default

end Sys2Proof.Machine
end

