-- ==== Sys2Proof/Machine/Flags.lean ====
section
/-! DEFINITION. The sticky status bits and the `STATUS` port (10_state.md R26 to R28), the records of the event port
(30_encoding.md R75) and the handshake of the output ports (30_encoding.md R74, 70_reset_and_hazards.md R231, R239). The block has no condition codes and no arithmetic flags (R28). -/

namespace Sys2Proof.Machine

/-- The code of `LINK` on the status port (R24). -/
def Link.code : Link → BitVec 2
  | .init => 0b00
  | .ready => 0b01
  | .failed => 0b10

/-- The code of an `ERROR` event (R201). -/
def ErrorCode.code : ErrorCode → Byte
  | .linkFail => 0x01

/-- `STATUS[4]`, the mirror of `FRAMING_MODE` (R5, R28). -/
def modeBit : FramingMode → Bool
  | .cr => false
  | .stream => true

/-- The fields of the status port (R28): reserved 000, MODE, ILLEGAL_CMD, OVF, LINK. -/
def statusFields (mode : FramingMode) (illegalCmd ovf : Bool) (link : Link) : BitVec 8 :=
  (0 : BitVec 3) ++ BitVec.ofBool (modeBit mode) ++ BitVec.ofBool illegalCmd ++ BitVec.ofBool ovf ++ link.code

/-- The status port `STATUS[7:0]` (R28): read only, and reading it changes nothing (R46). -/
def State.status (s : State) : BitVec 8 := statusFields s.cfg.framingMode s.illegalCmd s.ovf s.link

/-- `OVF <- 1` (R102). -/
def State.setOvf (s : State) : State := { s with ovf := true }

/-- `ILLEGAL_CMD <- 1` (R169). -/
def State.setIllegalCmd (s : State) : State := { s with illegalCmd := true }

/-! ### The event port (R75) -/

/-- One beat of the event port. Fields a tag does not use are 0. -/
structure EventBeat where
  tag : BitVec 4
  a : Half := 0
  b : Half := 0
  c : Half := 0
  ts : Nat := 0
  deriving DecidableEq, Repr

/-- A byte in bits 7..0 of a field. Bits 15..8 are 0 where the table names no use for them (`ERROR`, Version's day,
Cycle, UNKNOWN_DATA): DESIGN CHOICE (log 25), R75 gives 0 to whole unused fields only. -/
def lowField (b : Byte) : Half := BitVec.ofNat 16 b.toNat

/-- A flag in bit 0 of a field. Bits 15..1, which the table does not name, are 0: DESIGN CHOICE (log 25). -/
def flagField (b : Bool) : Half := if b then 1 else 0

/-- The two grades in `C[2:0]` and `C[6:4]`. Bit 3 and bits 15..7, which the table does not name, are 0: DESIGN CHOICE
(log 25). -/
def gradesField (g10 g25 : Fin 6) : Half := BitVec.ofNat 16 (g25.val * 16 + g10.val)

/-- The beats of an event, in order (R75): one record, and after the header of an Unknown one beat a raw byte. `A` of
that header is the number of bytes, which the port carries only up to 65535 (log 20). -/
def Event.beats : Event → List EventBeat
  | .ready => [{ tag := 0x0 }]
  | .error code => [{ tag := 0x1, a := lowField code.code }]
  | .response (.readout pm10 pm25 deviceId timestamp) =>
    [{ tag := 0x2, a := pm10, b := pm25, c := deviceId, ts := timestamp }]
  | .response (.version year month day deviceId) =>
    [{ tag := 0x3, a := u16le year month, b := lowField day, c := deviceId }]
  | .response (.reportingMode active) => [{ tag := 0x4, a := flagField active }]
  | .response (.deviceIdChanged deviceId) => [{ tag := 0x5, c := deviceId }]
  | .response (.powerMode sleeping) => [{ tag := 0x6, a := flagField sleeping }]
  | .response (.cycle intervalMinutes) => [{ tag := 0x7, a := lowField intervalMinutes }]
  | .response (.unknown rawBytes) =>
    { tag := 0x8, a := BitVec.ofNat 16 rawBytes.length } :: rawBytes.map (fun b => { tag := 0xF, a := lowField b })
  | .readout pm10 pm25 g10 g25 => [{ tag := 0x9, a := pm10, b := pm25, c := gradesField g10 g25 }]

/-- What the event port presents of `EVQ`, in order; the beats of one event are contiguous (R75). -/
def State.eventBeats (s : State) : List EventBeat := s.evq.flatMap Event.beats

/-! ### The handshake of the output ports (R74, R207, R231, R239) -/

/-- `evt_valid`: a beat is offered, that is, some beat of `EVQ` has not left the event port. -/
def State.evtValid (s : State) : Bool := decide (s.evtTaken < s.eventBeats.length)

/-- The beat offered on the event port. -/
def State.evtData (s : State) : Option EventBeat := s.eventBeats[s.evtTaken]?

/-- `tx_valid`: a byte is offered, that is, some byte of `TXQ` has not left the transmit port. -/
def State.txValid (s : State) : Bool := decide (s.txTaken < s.txq.length)

/-- `tx_data`: the byte offered on the transmit port. -/
def State.txData (s : State) : Option Byte := s.txq[s.txTaken]?

/-- `cmd_ready`, and the ready of the rx port: high once every output has been accepted (R239). -/
def State.inReady (s : State) : Bool := !s.evtValid && !s.txValid

/-- The place of a port after its consumer has accepted `take` of `offered` outputs, of which `taken` had left it. -/
def portPlace (offered taken : Nat) (take : Option Nat) : Nat :=
  match take with
  | none => offered
  | some n => min offered (taken + n)

/-- The consumer accepts beats and bytes, in order, as the cycle says (R239). Nothing is dropped from `EVQ` or `TXQ`. -/
def State.takeOutputs (s : State) (p : PortCycle) : State :=
  { s with
    evtTaken := portPlace s.eventBeats.length s.evtTaken p.evtTake,
    txTaken := portPlace s.txq.length s.txTaken p.txTake }

/-- Both output ports are idle: `evt_valid = tx_valid = 0`. -/
def State.idlePorts (s : State) : State := { s with evtTaken := s.eventBeats.length, txTaken := s.txq.length }

end Sys2Proof.Machine
end

