-- ==== Sys2Proof/Machine/Ops.lean ====
section
/-! DEFINITION. The shared operations: the primitives `emit`, `transmit`, `raise Fault(OVF)` and `refuse(ILLEGAL_CMD)`
(00_scope.md R11), the front ends of PUSH_CHUNK (40_assembler.md R100) and ENCODE (42_encoder.md R160), the marker
search and the greedy parse of streaming mode (R111 to R115), and how a transaction is taken from the ports
(30_encoding.md R74). The block has no trap entry and no trap return (60_exceptions.md R200, R208): `raiseOvf` and
`refuseIllegalCmd` are its only two abnormal outcomes. -/

namespace Sys2Proof.Machine

/-- The outcome of a step of the block. -/
abbrev StepOutcome := Host.Outcome State Fault Refusal

/-! ### State writes -/

/-- `LINK <- l`. -/
def State.setLink (s : State) (l : Link) : State := { s with link := l }

/-- `BUF <- b`. -/
def State.setBuf (s : State) (b : List Byte) : State := { s with buf := b }

/-- `emit(e)` (R11): append to `EVQ`. -/
def State.emit (s : State) (e : Event) : State := { s with evq := s.evq ++ [e] }

/-- `transmit(t)` (R11): append to `TXQ`, in index order. -/
def State.transmit (s : State) (t : List Byte) : State := { s with txq := s.txq ++ t }

/-- The writes of RESET (R230, R231). `EVQ` and `TXQ` keep what they hold, and both output ports are idle; the
configuration is sampled anew and is the fixed argument of the run (R232; log 1). -/
def State.resetBlock (s : State) : State :=
  State.idlePorts { s with link := .init, buf := [], ovf := false, illegalCmd := false }

/-- The timestamp of the current transaction (R34, R147): the low `TS_WIDTH` bits of the `now` input. -/
def State.timestamp (s : State) : Nat := s.now % 2 ^ s.cfg.tsWidth

/-! ### The two abnormal outcomes -/

/-- `OVF <- 1; raise Fault(OVF)` (R102, R204). -/
def raiseOvf (s : State) : StepOutcome := .fault (.ovf s.setOvf)

/-- `ILLEGAL_CMD <- 1; refuse(ILLEGAL_CMD)` (R160, R205). -/
def refuseIllegalCmd (s : State) : StepOutcome := .refused (.illegalCmd s.setIllegalCmd)

/-! ### PUSH_CHUNK -/

/-- `n` bytes fit the capacity (R102). -/
def fitsCap (cfg : Config) (n : Nat) : Bool :=
  match cfg.bufCap with
  | none => true
  | some cap => decide (n ≤ cap)

/-- The front end of PUSH_CHUNK (R100), with the checks in the order of R206; `process` is the mode's algorithm. -/
def pushFront (process : State → StepOutcome) (c : List Byte) (s : State) : StepOutcome :=
  if s.link = .failed then .next s
  else if s.ovf then .next s
  else if fitsCap s.cfg (s.buf.length + c.length) = false then raiseOvf s
  else process (s.setBuf (s.buf ++ c))

/-- `FIND_MARKER(s)` (R111): the least index of `0xAA 0xC0`, by whole bytes (R44). -/
def findMarker : List Byte → Option Nat
  | [] => none
  | [_] => none
  | a :: b :: rest =>
    if a = 0xAA ∧ b = 0xC0 then some 0 else (findMarker (b :: rest)).map (· + 1)

/-- The passes of `STREAM_PROCESS` (R110) over a buffer, at most `fuel` of them: the payloads extracted, in order, and
the buffer left. A pass that goes on removes 10 bytes, so a buffer's own length is fuel enough. -/
def streamPasses : Nat → List Byte → List (List Byte) × List Byte
  | 0, b => ([], b)
  | fuel + 1, b =>
    match findMarker b with
    | none => ([], b)
    | some i =>
      let b' := b.drop i
      if b'.length < 10 then ([], b')
      else
        let r := streamPasses fuel (b'.drop 10)
        (slice b' 2 10 :: r.1, r.2)

/-- `STREAM_PROCESS` over a buffer. -/
def streamParse (b : List Byte) : List (List Byte) × List Byte := streamPasses b.length b

/-! ### ENCODE -/

/-- The front end of ENCODE (R160) for a command that is one of the six. -/
def encodeFront (body : List Byte) (s : State) : StepOutcome :=
  if s.link = .failed then .next s
  else .next (s.transmit (cmdFrame body))

/-! ### Taking a transaction from the ports -/

/-- The transaction the ports present next and the state in which it runs: outputs accepted as far as the consumer
goes, `now` sampled, the transaction taken off (R74, R206). While an output is still offered, no transaction but RESET is
accepted and the host goes on presenting it (R239). -/
def fetch (s : State) : Option (Option Instr × State) :=
  match s.inputs with
  | [] => none
  | p :: ps =>
    match nextTxn s.cfg.framingMode p with
    | none => some (none, { s.takeOutputs p with inputs := ps })
    | some (i, p') =>
      if p.rst || (s.takeOutputs p).inReady then
        some (some i, { s.takeOutputs p with now := p.now, inputs := p'.rest ++ ps })
      else some (none, s.takeOutputs p)

/-! ### Placing an instruction for the next step -/

/-- The framing mode of a response or streaming row (R71). -/
def rowMode : Instr → Option FramingMode
  | .pushChunkCr _ => some .cr
  | .pushChunkStream _ => some .stream
  | .rspReadout _ _ _ _ _ _ => some .cr
  | .rspVersion _ _ _ _ _ => some .cr
  | .rspReportingMode _ => some .cr
  | .rspDeviceIdChanged _ _ => some .cr
  | .rspPowerMode _ => some .cr
  | .rspCycle _ => some .cr
  | .rspUnknown _ => some .cr
  | .strmReadout _ _ _ _ => some .stream
  | .reset => none
  | .linkOpen => none
  | .linkFail => none
  | .cmdQueryVersion => none
  | .cmdSetReportingMode _ => none
  | .cmdQueryData => none
  | .cmdSetDeviceId _ => none
  | .cmdSetPowerMode _ => none
  | .cmdSetCycle _ => none
  | .cmdReserved _ _ => none

/-- The port cycle that presents an instruction: its own strobe, the command port, or for a response or streaming row
the chunk that is its frame. -/
def portCycleOf (i : Instr) (now : Nat) : PortCycle :=
  match encodeCmdPort i with
  | some c => { now := now, cmd := some c }
  | none =>
    match encode i with
    | .txn _ p => { p with now := now }
    | .rsp f => { now := now, rx := some (RxChunk.ofBytes f) }
    | .strm f => { now := now, rx := some (RxChunk.ofBytes f) }
    | .cmd _ => { now := now }

/-- The state in which the next step runs `i`: the ports present it first. A frame row needs the framing mode that
reads its format and a buffer that holds nothing before the frame (log 12). -/
def State.present (s : State) (i : Instr) : State :=
  match rowMode i with
  | none => { s with inputs := portCycleOf i s.now :: s.inputs }
  | some m =>
    { s with inputs := portCycleOf i s.now :: s.inputs, cfg := { s.cfg with framingMode := m }, buf := [] }

end Sys2Proof.Machine
end

