-- ==== Sys2Proof/Machine/Responses.lean ====
section
/-! DEFINITION. The response decoder's rows (41_decoder.md R132 to R138) and the streaming readout (R142): what each
emits. A row runs when the frame synchronizer has accepted its candidate or extracted its frame (40_assembler.md R107,
R115); the row itself tests nothing again (R130; log 10). -/

namespace Sys2Proof.Machine

/-- `emit(RESPONSE(r))` (R107). -/
def respond (r : Response) (s : State) : StepOutcome := .next (s.emit (.response r))

/-- RSP.Readout (R132, R147). -/
def execRspReadout (pm10Lo pm10Hi pm25Lo pm25Hi id1 id2 : Byte) (s : State) : StepOutcome :=
  respond (.readout (u16le pm10Lo pm10Hi) (u16le pm25Lo pm25Hi) (devid id1 id2) s.timestamp) s

/-- RSP.Version (R133). -/
def execRspVersion (year month day id1 id2 : Byte) (s : State) : StepOutcome :=
  respond (.version year month day (devid id1 id2)) s

/-- RSP.ReportingMode (R134). -/
def execRspReportingMode (mode : Byte) (s : State) : StepOutcome := respond (.reportingMode (mode == 0x00)) s

/-- RSP.DeviceIdChanged (R135). -/
def execRspDeviceIdChanged (id1 id2 : Byte) (s : State) : StepOutcome := respond (.deviceIdChanged (devid id1 id2)) s

/-- RSP.PowerMode (R136). -/
def execRspPowerMode (mode : Byte) (s : State) : StepOutcome := respond (.powerMode (mode == 0x00)) s

/-- RSP.Cycle (R137): no range check. -/
def execRspCycle (minutes : Byte) (s : State) : StepOutcome := respond (.cycle minutes) s

/-- RSP.Unknown (R138): the whole candidate. -/
def execRspUnknown (rawBytes : List Byte) (s : State) : StepOutcome := respond (.unknown rawBytes) s

/-- `READOUT(STREAM_DECODE(p))` (R142) for the payload bytes it reads. -/
def streamReadout (pm10Lo pm10Hi pm25Lo pm25Hi : Byte) : Event :=
  .readout (u16le pm10Lo pm10Hi) (u16le pm25Lo pm25Hi) (grade10 (u16le pm10Lo pm10Hi)) (grade25 (u16le pm25Lo pm25Hi))

/-- STRM.READOUT (R142). -/
def execStrmReadout (pm10Lo pm10Hi pm25Lo pm25Hi : Byte) (s : State) : StepOutcome :=
  .next (s.emit (streamReadout pm10Lo pm10Hi pm25Lo pm25Hi))

/-- `emit(RESPONSE(DECODE(f, now)))` (R107): the row the response map selects for the candidate runs. -/
def runResponse (f : List Byte) (s : State) : StepOutcome :=
  match rspRow f with
  | .readout => execRspReadout (byteAt f 2) (byteAt f 3) (byteAt f 4) (byteAt f 5) (byteAt f 6) (byteAt f 7) s
  | .version => execRspVersion (byteAt f 3) (byteAt f 4) (byteAt f 5) (byteAt f 6) (byteAt f 7) s
  | .reportingMode => execRspReportingMode (byteAt f 4) s
  | .deviceIdChanged => execRspDeviceIdChanged (byteAt f 6) (byteAt f 7) s
  | .powerMode => execRspPowerMode (byteAt f 4) s
  | .cycle => execRspCycle (byteAt f 4) s
  | .unknown => execRspUnknown f s

/-- `emit(READOUT(STREAM_DECODE(p)))` (R110) for each extracted payload in order: the row STRM.READOUT runs on each. -/
def runReadouts : List (List Byte) → State → StepOutcome
  | [], s => .next s
  | p :: ps, s =>
    match execStrmReadout (byteAt p 0) (byteAt p 1) (byteAt p 2) (byteAt p 3) s with
    | .next t => runReadouts ps t
    | .fault r => .fault r
    | .refused r => .refused r

end Sys2Proof.Machine
end

