-- ==== Sys2Proof/Machine/Assembler.lean ====
section
/-! DEFINITION. The frame synchronizer: PUSH_CHUNK in its two modes (40_assembler.md R100 to R122). -/

namespace Sys2Proof.Machine

/-- What becomes of a candidate taken from the buffer (R101): dropped on bad markers (R104) or a bad checksum (R106),
else decoded (R107). -/
def judgeCandidate (f : List Byte) (s : State) : StepOutcome :=
  if markersOk f = false then .next s
  else if csOk f = false then .next s
  else runResponse f s

/-- `CR_PROCESS` (R101): fewer than 5 bytes are kept (R103); else the whole buffer is the candidate (R107). -/
def crProcess (s : State) : StepOutcome :=
  if s.buf.length < 5 then .next s else judgeCandidate s.buf (s.setBuf [])

/-- `STREAM_PROCESS` (R110): the buffer is parsed, and each frame found emits its readout. -/
def streamProcess (s : State) : StepOutcome :=
  runReadouts (streamParse s.buf).1 (s.setBuf (streamParse s.buf).2)

/-- PUSH_CHUNK.CR (R100, R101). The decoder selects this row when `FRAMING_MODE = CR` (log 11). -/
def execPushChunkCr (c : List Byte) (s : State) : StepOutcome := pushFront crProcess c s

/-- PUSH_CHUNK.STREAM (R100, R110). The decoder selects this row when `FRAMING_MODE = STREAM` (log 11). -/
def execPushChunkStream (c : List Byte) (s : State) : StepOutcome := pushFront streamProcess c s

end Sys2Proof.Machine
end

