-- ==== Sys2Proof/Machine/Encoder.lean ====
section
/-! DEFINITION. The command encoder: ENCODE of the six commands (42_encoder.md R160 to R168) and of a reserved tag
(R169). -/

namespace Sys2Proof.Machine

/-- CMD.QueryVersion (R163). -/
def execCmdQueryVersion (s : State) : StepOutcome := encodeFront bodyQueryVersion s

/-- CMD.SetReportingMode (R164). -/
def execCmdSetReportingMode (active : Bool) (s : State) : StepOutcome := encodeFront (bodySetReportingMode active) s

/-- CMD.QueryData (R165). -/
def execCmdQueryData (s : State) : StepOutcome := encodeFront bodyQueryData s

/-- CMD.SetDeviceId (R166). -/
def execCmdSetDeviceId (id : Half) (s : State) : StepOutcome := encodeFront (bodySetDeviceId id) s

/-- CMD.SetPowerMode (R167): a command to the sensor; the block has no power mode of its own (R214). -/
def execCmdSetPowerMode (sleep : Bool) (s : State) : StepOutcome := encodeFront (bodySetPowerMode sleep) s

/-- CMD.SetCycle (R168): every natural number, truncated to a byte (R170). -/
def execCmdSetCycle (n : Nat) (s : State) : StepOutcome := encodeFront (bodySetCycle n) s

/-- CMD.reserved (R169): ignored in `FAILED` as every ENCODE (R160, R192), else refused. Neither the tag nor the
argument has any further effect. -/
def execCmdReserved (_tag : BitVec 3) (_arg : Half) (s : State) : StepOutcome :=
  if s.link = .failed then .next s else refuseIllegalCmd s

end Sys2Proof.Machine
end

