-- ==== Sys2Proof/Machine/Link.lean ====
section
/-! DEFINITION. RESET (70_reset_and_hazards.md R230) and the link notifications LINK_OPEN and LINK_FAIL (43_link.md
R190 to R192). -/

namespace Sys2Proof.Machine

/-- RESET (R230): accepted in every state. -/
def execReset (s : State) : StepOutcome := .next s.resetBlock

/-- LINK_OPEN (R190): only in `INIT`; a duplicate or a notification after failure is ignored. -/
def execLinkOpen (s : State) : StepOutcome :=
  if s.link = .init then .next ((s.setLink .ready).emit .ready) else .next s

/-- LINK_FAIL (R191): reported once. -/
def execLinkFail (s : State) : StepOutcome :=
  if s.link ≠ .failed then .next ((s.setLink .failed).emit (.error .linkFail)) else .next s

end Sys2Proof.Machine
end

