-- ==== Sys2Proof/Machine/Dispatch.lean ====
section
/-! DEFINITION. One arm for each constructor of Instr: the one call of its meaning. -/

namespace Sys2Proof.Machine

def exec (i : Instr) (s : State) : Host.Outcome State Fault Refusal :=
  match i with
  -- host transactions: reset, link, chunks
  | .reset => Sys2Proof.Machine.execReset s
  | .linkOpen => Sys2Proof.Machine.execLinkOpen s
  | .linkFail => Sys2Proof.Machine.execLinkFail s
  | .pushChunkCr c => Sys2Proof.Machine.execPushChunkCr c s
  | .pushChunkStream c => Sys2Proof.Machine.execPushChunkStream c s
  -- commands
  | .cmdQueryVersion => Sys2Proof.Machine.execCmdQueryVersion s
  | .cmdSetReportingMode active => Sys2Proof.Machine.execCmdSetReportingMode active s
  | .cmdQueryData => Sys2Proof.Machine.execCmdQueryData s
  | .cmdSetDeviceId id => Sys2Proof.Machine.execCmdSetDeviceId id s
  | .cmdSetPowerMode sleep => Sys2Proof.Machine.execCmdSetPowerMode sleep s
  | .cmdSetCycle n => Sys2Proof.Machine.execCmdSetCycle n s
  | .cmdReserved tag arg => Sys2Proof.Machine.execCmdReserved tag arg s
  -- responses
  | .rspReadout a b c d x y => Sys2Proof.Machine.execRspReadout a b c d x y s
  | .rspVersion a b c x y => Sys2Proof.Machine.execRspVersion a b c x y s
  | .rspReportingMode m => Sys2Proof.Machine.execRspReportingMode m s
  | .rspDeviceIdChanged x y => Sys2Proof.Machine.execRspDeviceIdChanged x y s
  | .rspPowerMode m => Sys2Proof.Machine.execRspPowerMode m s
  | .rspCycle m => Sys2Proof.Machine.execRspCycle m s
  | .rspUnknown f => Sys2Proof.Machine.execRspUnknown f s
  -- streaming readout
  | .strmReadout a b c d => Sys2Proof.Machine.execStrmReadout a b c d s

end Sys2Proof.Machine
end

