-- ==== Sys2Proof/Machine/Step.lean ====
section
/-! DEFINITION. One step of the block: the next host transaction the ports present (30_encoding.md R74), executed
atomically (20_memory.md R48). -/

namespace Sys2Proof.Machine

/-- With nothing presented the block waits (20_memory.md R47), and a cycle without a transaction passes (log 5);
otherwise the transaction runs, once the outputs of the one before have been accepted (70_reset_and_hazards.md R239). -/
def step (s : State) : Host.Outcome State Fault Refusal :=
  match fetch s with
  | none => .next s
  | some (none, s') => .next s'
  | some (some i, s') => exec i s'

/-- `s` with the instruction of a table word placed for the next step (log 12): presented on the ports, for a frame
row as the chunk that is its frame. A word that is no instruction places nothing. -/
def State.withFetchWord (s : State) (nbits w : Nat) : State :=
  match decodeTableWord nbits w with
  | none => s
  | some i => s.present i

end Sys2Proof.Machine
end

