-- ==== Sys2Proof/Safety.lean ====
section
/-! DEFINITION. What counts as a safe run, and the words claims use: the state after a step whatever its outcome, runs
of several instructions, the invariant of the block, and the independent description of the greedy streaming parse
(40_assembler.md R118). -/

namespace Sys2Proof.Machine

/-! ### Outcomes -/

/-- The state the hardware is in after a step: the next state, or the one a fault or a refusal carries (60_exceptions.md
R204, R205: both are states with a sticky bit set, left by RESET). -/
def afterStep : StepOutcome → Option State
  | .next s => some s
  | .fault (.ovf s) => some s
  | .refused (.illegalCmd s) => some s
  | .refused _ => none

/-- A valid end of a run for claims about the source's behaviour (R204, R205): no fault and no refusal so far. -/
abbrev State.clean (s : State) : Prop := s.ovf = false ∧ s.illegalCmd = false

/-- Several instructions in order, up to the first fault or refusal. -/
def execAll : List Instr → State → StepOutcome
  | [], s => .next s
  | i :: is, s =>
    match exec i s with
    | .next t => execAll is t
    | .fault r => .fault r
    | .refused r => .refused r

/-- The state after several instructions in order, going on past a fault or a refusal as the hardware does. -/
def afterAll : List Instr → State → Option State
  | [], s => some s
  | i :: is, s =>
    match afterStep (exec i s) with
    | some t => afterAll is t
    | none => none

/-- Chunks delivered one after another to an instance in command/response mode. -/
def pushAllCr (cs : List (List Byte)) (s : State) : StepOutcome := execAll (cs.map .pushChunkCr) s

/-- Chunks delivered one after another to an instance in streaming mode. -/
def pushAllStream (cs : List (List Byte)) (s : State) : StepOutcome := execAll (cs.map .pushChunkStream) s

/-- The instruction is one of the host transactions of 30_encoding.md R74 (an ENCODE of a reserved tag among them). -/
def isTransaction : Instr → Bool
  | .reset => true
  | .linkOpen => true
  | .linkFail => true
  | .pushChunkCr _ => true
  | .pushChunkStream _ => true
  | .cmdQueryVersion => true
  | .cmdSetReportingMode _ => true
  | .cmdQueryData => true
  | .cmdSetDeviceId _ => true
  | .cmdSetPowerMode _ => true
  | .cmdSetCycle _ => true
  | .cmdReserved _ _ => true
  | .rspReadout _ _ _ _ _ _ => false
  | .rspVersion _ _ _ _ _ => false
  | .rspReportingMode _ => false
  | .rspDeviceIdChanged _ _ => false
  | .rspPowerMode _ => false
  | .rspCycle _ => false
  | .rspUnknown _ => false
  | .strmReadout _ _ _ _ => false

/-- The instruction is one of the six commands (30_encoding.md R68). -/
def isCommand : Instr → Bool
  | .cmdQueryVersion => true
  | .cmdSetReportingMode _ => true
  | .cmdQueryData => true
  | .cmdSetDeviceId _ => true
  | .cmdSetPowerMode _ => true
  | .cmdSetCycle _ => true
  | .reset => false
  | .linkOpen => false
  | .linkFail => false
  | .pushChunkCr _ => false
  | .pushChunkStream _ => false
  | .cmdReserved _ _ => false
  | .rspReadout _ _ _ _ _ _ => false
  | .rspVersion _ _ _ _ _ => false
  | .rspReportingMode _ => false
  | .rspDeviceIdChanged _ _ => false
  | .rspPowerMode _ => false
  | .rspCycle _ => false
  | .rspUnknown _ => false
  | .strmReadout _ _ _ _ => false

/-- The front end of PUSH_CHUNK lets `n` more bytes in (R100): no failure, no fault, and room. -/
abbrev State.accepts (s : State) (n : Nat) : Prop :=
  s.link ≠ .failed ∧ s.ovf = false ∧ fitsCap s.cfg (s.buf.length + n) = true

/-- The bytes a transaction delivers to the frame synchronizer. -/
def chunkBytes : Instr → List Byte
  | .pushChunkCr c => c
  | .pushChunkStream c => c
  | .reset => []
  | .linkOpen => []
  | .linkFail => []
  | .cmdQueryVersion => []
  | .cmdSetReportingMode _ => []
  | .cmdQueryData => []
  | .cmdSetDeviceId _ => []
  | .cmdSetPowerMode _ => []
  | .cmdSetCycle _ => []
  | .cmdReserved _ _ => []
  | .rspReadout _ _ _ _ _ _ => []
  | .rspVersion _ _ _ _ _ => []
  | .rspReportingMode _ => []
  | .rspDeviceIdChanged _ _ => []
  | .rspPowerMode _ => []
  | .rspCycle _ => []
  | .rspUnknown _ => []
  | .strmReadout _ _ _ _ => []

/-- A transaction a session of a streaming instance holds after its RESET: no other RESET, no link failure, and chunks
in the row of its mode. -/
def isStreamSession (i : Instr) : Bool :=
  isTransaction i && decide (i ≠ .reset) && decide (i ≠ .linkFail) && decide (i ≠ .pushChunkCr (chunkBytes i))

/-- A transaction that an instance in streaming mode can meet: any, with its chunks in the row of its mode. -/
def isStreamTransaction (i : Instr) : Bool := isTransaction i && decide (i ≠ .pushChunkCr (chunkBytes i))

/-- The event is a `READOUT` (R29). -/
def isReadout : Event → Bool
  | .readout _ _ _ _ => true
  | .ready => false
  | .error _ => false
  | .response _ => false

/-! ### The invariant -/

/-- A buffer as PUSH_CHUNK leaves it: R108 (b) in command/response mode, R122 in streaming mode. -/
def bufSettled (mode : FramingMode) (b : List Byte) : Bool :=
  match mode with
  | .cr => decide (b.length ≤ 4)
  | .stream => (findMarker b).isNone || (b.take 2 == [0xAA, 0xC0] && decide (b.length ≤ 9))

/-- An event the block of this configuration can have emitted: a timestamp of `TS_WIDTH` bits (R7), an Unknown that is
a valid candidate of no other row (R138), grades that are the grades of the values (R142), and responses in
command/response mode only, readouts in streaming mode only (R5). -/
def eventOk (cfg : Config) : Event → Bool
  | .ready => true
  | .error _ => true
  | .response (.readout _ _ _ timestamp) => decide (cfg.framingMode = .cr) && decide (timestamp < 2 ^ cfg.tsWidth)
  | .response (.version _ _ _ _) => decide (cfg.framingMode = .cr)
  | .response (.reportingMode _) => decide (cfg.framingMode = .cr)
  | .response (.deviceIdChanged _) => decide (cfg.framingMode = .cr)
  | .response (.powerMode _) => decide (cfg.framingMode = .cr)
  | .response (.cycle _) => decide (cfg.framingMode = .cr)
  | .response (.unknown rawBytes) =>
    decide (cfg.framingMode = .cr) && candidateOk rawBytes && decide (rspRow rawBytes = .unknown)
  | .readout pm10 pm25 g10 g25 =>
    decide (cfg.framingMode = .stream) && decide (g10 = grade10 pm10) && decide (g25 = grade25 pm25)

/-- Bytes that are whole command frames one after another (20_memory.md R50). -/
inductive CommandStream : List Byte → Prop where
  | nil : CommandStream []
  | snoc (q t : List Byte) (i : Instr) : CommandStream q → decodeCmd t = .ok i → CommandStream (q ++ t)

/-- The invariant that every step keeps. -/
structure State.Inv (s : State) : Prop where
  /-- R25: the buffer is within its capacity -/
  capacity : fitsCap s.cfg s.buf.length = true
  /-- R108, R122 -/
  settled : bufSettled s.cfg.framingMode s.buf = true
  /-- every event is one this configuration emits -/
  events : ∀ e ∈ s.evq, eventOk s.cfg e = true
  /-- R50: `TXQ` is whole command frames -/
  frames : CommandStream s.txq
  /-- R239: no more has left an output port than was put on it -/
  evtPort : s.evtTaken ≤ s.eventBeats.length
  /-- R239 -/
  txPort : s.txTaken ≤ s.txq.length

/-! ### The greedy parse of a byte stream (R118), described without the algorithm -/

/-- No `0xAA 0xC0` pair stands anywhere in the bytes. -/
def NoMarker (b : List Byte) : Prop := ∀ pre post : List Byte, b ≠ pre ++ 0xAA :: 0xC0 :: post

/-- `pre` holds no marker and makes none with the marker that follows it: the marker after it is the first one. -/
def BeforeFirstMarker (pre : List Byte) : Prop := NoMarker (pre ++ [0xAA])

/-- The greedy left-to-right parse of R118: find the first marker, take 10 bytes, repeat on the rest, stop when there
is no marker or fewer than 10 bytes remain from it. -/
inductive GreedyParse : List Byte → List (List Byte) → Prop where
  | noMarker (b : List Byte) : NoMarker b → GreedyParse b []
  | partialFrame (pre post : List Byte) : BeforeFirstMarker pre → post.length < 8 →
      GreedyParse (pre ++ 0xAA :: 0xC0 :: post) []
  | frame (pre p rest : List Byte) (ps : List (List Byte)) : BeforeFirstMarker pre → p.length = 8 →
      GreedyParse rest ps → GreedyParse (pre ++ 0xAA :: 0xC0 :: (p ++ rest)) (p :: ps)

/-- The readout event of an 8-byte payload (R142). -/
def payloadEvent (p : List Byte) : Event := streamReadout (byteAt p 0) (byteAt p 1) (byteAt p 2) (byteAt p 3)

/-- `trim(BUF)` of R121, for a buffer without a marker. -/
def trimBuf (b : List Byte) : List Byte := if b.getLast? = some 0xAA then [0xAA] else []

end Sys2Proof.Machine
end

