-- ==== Sys2Proof/Certificates/Slice0/Obligations.lean ====
section
/-! DEFINITION. The statements for the provers, from the numbered rules of spec/. Each docstring names the rules it
formalises. Next states are written as record updates of the state before, so each such statement is its own frame:
every field not named is unchanged. A witness for the hypotheses of each is in Sys2Proof/Tests/Slice0.lean
(`witness_…`). -/

open Sys2Proof Sys2Proof.Machine

/-! ### Encodings -/

/-- Decoding the encoding of any well-formed instruction gives it back, with every operand at every value its field
admits (30_encoding.md R61, R63, R64, R67, R68, R74). The unread bytes the encoder writes as zero are the model's
choice (log 13). -/
def Obligations.DecodeEncodeRoundTrip : Prop := ∀ i, WellFormed i → decode (encode i) = .ok i

/-- A 17-byte frame the decoder reads as a command is exactly that command's encoding, so no two frames mean one
command and none is read past its fixed bytes (R64, R68). The frame decoder is the model's own (log 14). -/
def Obligations.CommandFrameHasOneMeaning : Prop :=
  ∀ t i, decodeCmd t = .ok i → encode i = .cmd t ∧ isCommand i = true ∧ WellFormed i

/-- The command port's signals for an instruction are decoded to it again, for the six commands and the reserved tags
(R68, R74). -/
def Obligations.CommandPortRoundTrip : Prop :=
  ∀ i c, WellFormed i → encodeCmdPort i = some c → decodeCmdPort c.tag c.arg = i

/-- R70: argument bits a command does not use are ignored; tags 6 and 7 are refused; the event port never carries a
reserved tag. -/
def Obligations.ReservedTagsAndIgnoredBits : Prop :=
  (∀ arg : Half,
    decodeCmdPort 0 arg = .cmdQueryVersion ∧
    decodeCmdPort 1 arg = .cmdSetReportingMode (arg.getLsbD 0) ∧
    decodeCmdPort 2 arg = .cmdQueryData ∧
    decodeCmdPort 3 arg = .cmdSetDeviceId arg ∧
    decodeCmdPort 4 arg = .cmdSetPowerMode (arg.getLsbD 0) ∧
    decodeCmdPort 5 arg = .cmdSetCycle (arg.toNat % 256)) ∧
  (∀ (tag : BitVec 3) (arg : Half) (s : State), tag = 6 ∨ tag = 7 → s.link ≠ .failed →
    exec (decodeCmdPort tag arg) s = .refused (.illegalCmd { s with illegalCmd := true })) ∧
  (∀ (e : Event), ∀ b ∈ e.beats, b.tag.toNat ≤ 9 ∨ b.tag.toNat = 15)

/-- Words written out from the spec's encodings decode to the instructions they stand for (R163, R164, R166, R168;
R132 to R134, R138; R142). -/
def Obligations.SpecWordsDecode : Prop :=
  decode (.cmd [0xAA, 0xB4, 0x07, 0, 0, 0, 0, 0, 0, 0, 0, 0, 0, 0, 0, 0xBB, 0xAB]) = .ok .cmdQueryVersion ∧
  decode (.cmd [0xAA, 0xB4, 0x02, 1, 1, 0, 0, 0, 0, 0, 0, 0, 0, 0, 0, 0xB8, 0xAB]) =
    .ok (.cmdSetReportingMode false) ∧
  decode (.cmd [0xAA, 0xB4, 0x05, 0, 0, 0, 0, 0, 0, 0, 0, 0, 0, 0xA1, 0x60, 0xBA, 0xAB]) =
    .ok (.cmdSetDeviceId 0xA160) ∧
  decode (.cmd [0xAA, 0xB4, 0x08, 1, 5, 0, 0, 0, 0, 0, 0, 0, 0, 0, 0, 0xC2, 0xAB]) = .ok (.cmdSetCycle 5) ∧
  decode (.rsp [0xAA, 0xC0, 0xD4, 0x04, 0x3A, 0x0A, 0xA4, 0xD2, 0x52, 0xAB]) =
    .ok (.rspReadout 0xD4 0x04 0x3A 0x0A 0xA4 0xD2) ∧
  decode (.rsp [0xAA, 0xC5, 0x07, 0x0F, 0x07, 0x0A, 0xA1, 0x60, 0xED, 0xAB]) =
    .ok (.rspVersion 0x0F 0x07 0x0A 0xA1 0x60) ∧
  decode (.rsp [0xAA, 0xC5, 0x02, 0xC7, 0xAB]) = .ok (.rspReportingMode 0xAB) ∧
  decode (.rsp [0xAA, 0xC0, 0x01, 0x02, 0x03, 0x04, 0x05, 0xCF, 0xAB]) =
    .ok (.rspUnknown [0xAA, 0xC0, 0x01, 0x02, 0x03, 0x04, 0x05, 0xCF, 0xAB]) ∧
  decode (.rsp [0xAA, 0xC0, 0xD4, 0x04, 0x3A, 0x0A, 0xA1, 0x60, 0x1D, 0xAB]) = .error .badChecksum ∧
  decode (.strm [0xAA, 0xC0, 0xD4, 0x04, 0x3A, 0x0A, 0xA4, 0xD2, 0x52, 0xAB]) = .ok (.strmReadout 0xD4 0x04 0x3A 0x0A)

/-- R67, R131 and R139: the row a candidate of at least 5 bytes selects, and the bytes it reads. -/
def Obligations.ResponseMapSelectsRow : Prop :=
  ∀ f : List Byte, ∀ hL : 5 ≤ f.length,
    (f[1] = 0xC0 → ∀ h : f.length = 10, decodeCandidate f = .rspReadout f[2] f[3] f[4] f[5] f[6] f[7]) ∧
    (f[1] = 0xC5 → f[2] = 0x07 → ∀ h : 8 ≤ f.length, decodeCandidate f = .rspVersion f[3] f[4] f[5] f[6] f[7]) ∧
    (f[1] = 0xC5 → f[2] = 0x02 → decodeCandidate f = .rspReportingMode f[4]) ∧
    (f[1] = 0xC5 → f[2] = 0x05 → ∀ h : 8 ≤ f.length, decodeCandidate f = .rspDeviceIdChanged f[6] f[7]) ∧
    (f[1] = 0xC5 → f[2] = 0x06 → decodeCandidate f = .rspPowerMode f[4]) ∧
    (f[1] = 0xC5 → f[2] = 0x08 → decodeCandidate f = .rspCycle f[4]) ∧
    (¬(f[1] = 0xC0 ∧ f.length = 10) → ¬(f[1] = 0xC5 ∧ f[2] = 0x07 ∧ 8 ≤ f.length) →
      ¬(f[1] = 0xC5 ∧ f[2] = 0x02) → ¬(f[1] = 0xC5 ∧ f[2] = 0x05 ∧ 8 ≤ f.length) →
      ¬(f[1] = 0xC5 ∧ f[2] = 0x06) → ¬(f[1] = 0xC5 ∧ f[2] = 0x08) → decodeCandidate f = .rspUnknown f)

/-! ### Steps and ports -/

/-- A step runs the decoded instruction: when the cycle at the head of the ports decodes to `i`, and `i` is RESET or
every output has been accepted as far as that cycle says (R239), the step is `exec i` with `now` sampled from the
cycle and the transaction taken off the ports (R74). A cycle whose consumer accepts all that is offered always meets
the condition. The queue of cycles is the model's own (log 5, log 16). -/
def Obligations.StepRunsPresentedTransaction : Prop :=
  (∀ s p ps i, s.inputs = p :: ps → decode (.txn s.cfg.framingMode p) = .ok i →
    i = .reset ∨ (s.takeOutputs p).inReady = true →
    ∃ p', nextTxn s.cfg.framingMode p = some (i, p') ∧
      step s = exec i { s.takeOutputs p with now := p.now, inputs := (if p'.idle then [] else [p']) ++ ps }) ∧
  (∀ (s : State) (p : PortCycle), p.evtTake = none → p.txTake = none →
    (s.takeOutputs p).inReady = true ∧
      s.takeOutputs p = { s with evtTaken := s.eventBeats.length, txTaken := s.txq.length })

/-- With nothing presented the block waits (20_memory.md R47), and a cycle that presents no transaction only passes,
its consumer accepting outputs as it says; that waiting is a step without effect is the model's choice (log 5). -/
def Obligations.StepWaitsForATransaction : Prop :=
  (∀ s : State, s.inputs = [] → step s = .next s) ∧
  (∀ s p ps, s.inputs = p :: ps → p.idle = true → step s = .next { s.takeOutputs p with inputs := ps })

/-- R239, as the model presents it (log 16): the consumer accepts outputs in order, as far as the cycle says, and nothing
leaves `EVQ` or `TXQ`; the ports offer what has not been accepted; while anything is still offered no transaction but
RESET is taken, and the host's cycle stays presented. -/
def Obligations.OutputsHoldTheNextTransaction : Prop :=
  (∀ (s : State) p ps i, s.inputs = p :: ps → decode (.txn s.cfg.framingMode p) = .ok i → i ≠ .reset →
    (s.takeOutputs p).inReady = false → step s = .next (s.takeOutputs p)) ∧
  (∀ (s : State) (p : PortCycle), s.takeOutputs p =
    { s with
      evtTaken := (match p.evtTake with
        | none => s.eventBeats.length
        | some n => min s.eventBeats.length (s.evtTaken + n))
      txTaken := (match p.txTake with
        | none => s.txq.length
        | some n => min s.txq.length (s.txTaken + n)) }) ∧
  (∀ s : State, (s.inReady = true ↔ s.evtValid = false ∧ s.txValid = false) ∧
    (s.evtValid = true ↔ ∃ b, s.evtData = some b) ∧ (s.txValid = true ↔ ∃ b, s.txData = some b) ∧
    s.evtData = (s.eventBeats.drop s.evtTaken).head? ∧ s.txData = (s.txq.drop s.txTaken).head?)

/-- R206: strobes of one cycle are taken in the order RESET, LINK_FAIL, LINK_OPEN, PUSH_CHUNK, ENCODE, each leaving
the others. The checks of PUSH_CHUNK and ENCODE are made in their order, and a candidate that fails both the marker
test and the checksum is reported as neither. -/
def Obligations.StrobeAndCheckOrder : Prop :=
  (∀ mode (p : PortCycle), p.rst = true → nextTxn mode p = some (.reset, { p with rst := false })) ∧
  (∀ mode (p : PortCycle), p.rst = false → p.linkFail = true →
    nextTxn mode p = some (.linkFail, { p with linkFail := false })) ∧
  (∀ mode (p : PortCycle), p.rst = false → p.linkFail = false → p.linkOpen = true →
    nextTxn mode p = some (.linkOpen, { p with linkOpen := false })) ∧
  (∀ (p : PortCycle) ch, p.rst = false → p.linkFail = false → p.linkOpen = false → p.rx = some ch →
    nextTxn .cr p = some (.pushChunkCr ch.bytes, { p with rx := none }) ∧
    nextTxn .stream p = some (.pushChunkStream ch.bytes, { p with rx := none })) ∧
  (∀ mode (p : PortCycle) c, p.rst = false → p.linkFail = false → p.linkOpen = false → p.rx = none → p.cmd = some c →
    nextTxn mode p = some (decodeCmdPort c.tag c.arg, { p with cmd := none })) ∧
  (∀ s c, s.link = .failed → exec (.pushChunkCr c) s = .next s ∧ exec (.pushChunkStream c) s = .next s) ∧
  (∀ s c, s.link ≠ .failed → s.ovf = true → exec (.pushChunkCr c) s = .next s ∧ exec (.pushChunkStream c) s = .next s) ∧
  (∀ s c, s.link ≠ .failed → s.ovf = false → fitsCap s.cfg (s.buf.length + c.length) = false →
    exec (.pushChunkCr c) s = .fault (.ovf { s with ovf := true }) ∧
    exec (.pushChunkStream c) s = .fault (.ovf { s with ovf := true })) ∧
  (∀ s c, s.accepts c.length → (∃ t, exec (.pushChunkCr c) s = .next t) ∧ ∃ t, exec (.pushChunkStream c) s = .next t) ∧
  (∀ s c, s.accepts c.length → 5 ≤ (s.buf ++ c).length → markersOk (s.buf ++ c) = false → csOk (s.buf ++ c) = false →
    exec (.pushChunkCr c) s = .next { s with buf := [] }) ∧
  (∀ s tag arg, s.link = .failed → exec (.cmdReserved tag arg) s = .next s) ∧
  (∀ s tag arg, s.link ≠ .failed → exec (.cmdReserved tag arg) s = .refused (.illegalCmd { s with illegalCmd := true }))

/-! ### Reset and link -/

/-- R230: RESET is accepted in every state, writes the four elements of the block's state, emits and transmits nothing
and keeps what `EVQ` and `TXQ` hold; a RESET directly after RESET changes nothing; the status port then shows only
MODE, and `evt_valid` and `tx_valid` are 0 (R231). Two clauses are the model's own: that each output port's place is
then the end of its queue, also for a RESET in the middle of a delivery, is its choice (log 16), and that the
configuration sampled anew is the fixed one of the run is its deduction from R232 (log 1). -/
def Obligations.ResetWritesBlockState : Prop :=
  ∀ s, ∃ t : State,
    t = { s with
      link := .init, buf := [], ovf := false, illegalCmd := false,
      evtTaken := s.eventBeats.length, txTaken := s.txq.length } ∧
    exec .reset s = .next t ∧ exec .reset t = .next t ∧
    t.status = (if s.cfg.framingMode = .stream then 0x10 else 0x00) ∧ t.evtValid = false ∧ t.txValid = false

/-- R231: the reset values, for every configuration: `LINK`, `BUF`, `OVF`, `ILLEGAL_CMD`, the status port, whose MODE
bit mirrors `FRAMING_MODE`, and `evt_valid` and `tx_valid`. That `EVQ` and `TXQ` (R29, R30) are empty at power-up is a
deduction of the model (log 4). `State.reset` is this state for one configuration the model chose (log 2). -/
def Obligations.StateAfterReset : Prop :=
  ∀ cfg, (State.resetWith cfg).link = .init ∧ (State.resetWith cfg).buf = [] ∧ (State.resetWith cfg).ovf = false ∧
    (State.resetWith cfg).illegalCmd = false ∧ (State.resetWith cfg).evq = [] ∧ (State.resetWith cfg).txq = [] ∧
    (State.resetWith cfg).cfg = cfg ∧
    (State.resetWith cfg).status = (if cfg.framingMode = .stream then 0x10 else 0x00) ∧
    (State.resetWith cfg).evtValid = false ∧ (State.resetWith cfg).txValid = false ∧
    exec .reset (State.resetWith cfg) = .next (State.resetWith cfg) ∧
    State.reset = State.resetWith Config.default

/-- R190: LINK_OPEN in `INIT` enters `READY` and emits one `READY`; in `READY` and `FAILED` it changes nothing; and
PUSH_CHUNK and ENCODE do not wait for it: they act in `INIT` as in `READY`. -/
def Obligations.LinkOpenEffect : Prop :=
  (∀ s, (s.link = .init → exec .linkOpen s = .next { s with link := .ready, evq := s.evq ++ [.ready] }) ∧
    (s.link ≠ .init → exec .linkOpen s = .next s)) ∧
  (∀ (s : State) i, i = .pushChunkCr (chunkBytes i) ∨ i = .pushChunkStream (chunkBytes i) ∨ isCommand i = true →
    afterStep (exec i { s with link := .init }) =
      (afterStep (exec i { s with link := .ready })).map (fun t => { t with link := .init }))

/-- R191: LINK_FAIL outside `FAILED` enters `FAILED` and emits one `ERROR` with code 0x01, `BUF` untouched; in
`FAILED` it changes nothing. -/
def Obligations.LinkFailEffect : Prop :=
  ∀ s, (s.link ≠ .failed → exec .linkFail s = .next { s with link := .failed, evq := s.evq ++ [.error .linkFail] }) ∧
    (s.link = .failed → exec .linkFail s = .next s) ∧ ErrorCode.linkFail.code = 0x01

/-- R192: in `FAILED` every transaction but RESET changes nothing, emits nothing and transmits nothing, and RESET
leaves `FAILED`; so a step that is not a RESET keeps the whole block as it is, up to what the host presents and how
far its consumer has accepted outputs. -/
def Obligations.FailedIsTerminal : Prop :=
  (∀ i s, s.link = .failed → isTransaction i = true → i ≠ .reset → exec i s = .next s) ∧
  (∀ s, s.link = .failed → ∃ t, exec .reset s = .next t ∧ t.link = .init) ∧
  (∀ s, s.link = .failed → (∀ p ps, s.inputs = p :: ps → p.rst = false) →
    ∃ now inputs evtTaken txTaken,
      step s = .next { s with now := now, inputs := inputs, evtTaken := evtTaken, txTaken := txTaken })

/-! ### The frame synchronizer, both modes -/

/-- R102: the capacity check is made before anything is appended; when it holds the step is a fault, `OVF` is set, and
nothing else changes; while `OVF = 1` every PUSH_CHUNK changes nothing; with `BUF_CAP` infinite it never holds. -/
def Obligations.OverflowIsAStickyFault : Prop :=
  (∀ s c cap, s.link ≠ .failed → s.ovf = false → s.cfg.bufCap = some cap → cap < s.buf.length + c.length →
    exec (.pushChunkCr c) s = .fault (.ovf { s with ovf := true }) ∧
    exec (.pushChunkStream c) s = .fault (.ovf { s with ovf := true })) ∧
  (∀ s c, s.ovf = true → exec (.pushChunkCr c) s = .next s ∧ exec (.pushChunkStream c) s = .next s) ∧
  (∀ s c cap, s.link ≠ .failed → s.ovf = false → s.cfg.bufCap = some cap → s.buf.length + c.length ≤ cap →
    (∃ t, exec (.pushChunkCr c) s = .next t) ∧ ∃ t, exec (.pushChunkStream c) s = .next t) ∧
  (∀ s c, s.cfg.bufCap = none → (∃ t, exec (.pushChunkCr c) s = .next t) ∧ ∃ t, exec (.pushChunkStream c) s = .next t)

/-- R120 (the spec's inference from R100, R108 and R122): an empty chunk changes nothing in either mode, from a buffer
as PUSH_CHUNK leaves it within its capacity. -/
def Obligations.EmptyChunkIsNoOp : Prop :=
  ∀ s, fitsCap s.cfg s.buf.length = true →
    (bufSettled .cr s.buf = true → exec (.pushChunkCr []) s = .next s) ∧
    (bufSettled .stream s.buf = true → exec (.pushChunkStream []) s = .next s)

/-! ### Command/response mode -/

/-- R101, R103, R104, R106, R107: what a chunk does once the front end lets it in, by the buffer `f` it completes.
Fewer than 5 bytes are kept. From 5 bytes on the buffer is emptied whatever the outcome: a candidate without its
markers or with a wrong checksum is dropped without an event, any other runs the response row it decodes to and emits
exactly one `RESPONSE`. -/
def Obligations.CrChunkOutcome : Prop :=
  ∀ s c, s.accepts c.length → ∀ f, f = s.buf ++ c →
    (f.length < 5 → exec (.pushChunkCr c) s = .next { s with buf := f }) ∧
    (∀ h : 5 ≤ f.length, f[0] ≠ 0xAA ∨ f[f.length - 1] ≠ 0xAB → exec (.pushChunkCr c) s = .next { s with buf := [] }) ∧
    (5 ≤ f.length → csOk f = false → exec (.pushChunkCr c) s = .next { s with buf := [] }) ∧
    (∀ h : 5 ≤ f.length, f[0] = 0xAA → f[f.length - 1] = 0xAB → csOk f = true →
      exec (.pushChunkCr c) s = exec (decodeCandidate f) { s with buf := [] } ∧
      ∃ r, exec (.pushChunkCr c) s = .next { s with buf := [], evq := s.evq ++ [.response r] })

/-- R105: the validator accepts a candidate exactly when the sum of the bytes after the start marker and before the
checksum byte, modulo 256, is the checksum byte, whatever its end marker. -/
def Obligations.ChecksumValidator : Prop :=
  ∀ (sof : Byte) (b : List Byte) (cs eof : Byte), 2 ≤ b.length →
    (csOk (sof :: (b ++ [cs, eof])) = true ↔ (b.map BitVec.toNat).sum % 256 = cs.toNat)

/-- R108 (the spec's inference from R103 and R107): from a buffer of at most 4 bytes a PUSH_CHUNK.CR, whatever its
outcome, leaves at most 4 bytes and emits at most one event, and an emitted response is the decoding of the leftover
bytes and the chunk. -/
def Obligations.CrAtMostOneResponse : Prop :=
  ∀ s c t, s.buf.length ≤ 4 → afterStep (exec (.pushChunkCr c) s) = some t →
    t.buf.length ≤ 4 ∧
      (t.evq = s.evq ∨ (∃ r, t.evq = s.evq ++ [.response r]) ∧
        exec (decodeCandidate (s.buf ++ c)) { s with buf := [] } = .next t)

/-- The readout frame on the wire (R101, R105, R132, R147): ten bytes in one chunk to an empty buffer give one Readout
with the values of the table when the checksum byte is right, and nothing when it is not. -/
def Obligations.CrReadoutFrameOnTheWire : Prop :=
  ∀ (s : State) (a b c d i j k : Byte), s.accepts 10 → s.buf = [] →
    exec (.pushChunkCr [0xAA, 0xC0, a, b, c, d, i, j, k, 0xAB]) s =
      if (0xC0 + a.toNat + b.toNat + c.toNat + d.toNat + i.toNat + j.toNat) % 256 = k.toNat then
        .next { s with evq := s.evq ++ [.response (.readout (BitVec.ofNat 16 (b.toNat * 256 + a.toNat))
          (BitVec.ofNat 16 (d.toNat * 256 + c.toNat)) (BitVec.ofNat 16 (i.toNat * 256 + j.toNat))
          (s.now % 2 ^ s.cfg.tsWidth))] }
      else .next s

/-- R119 (the spec's inference from R103, R104 and R107): a valid frame that arrives as chunks whose earlier pieces
together stay below 5 bytes is decoded as if it had come in one chunk. Once an earlier piece has brought the buffer to
5 bytes, that piece is judged alone and the buffer is empty, so the frame is never a candidate. R119 says that the
piece is dropped; that a piece which is itself a valid candidate is decoded, as R107 has it, is the model's reading
(log 21). -/
def Obligations.CrFrameSplitAcrossChunks : Prop :=
  ∀ (s : State) (cs : List (List Byte)) (f : List Byte), s.buf = [] → cs.flatten = f → candidateOk f = true →
    s.accepts f.length →
    ((∀ j < cs.length, (cs.take j).flatten.length < 5) →
      pushAllCr cs s = exec (decodeCandidate f) s) ∧
    (∀ j < cs.length, 5 ≤ (cs.take j).flatten.length → (∀ k < j, (cs.take k).flatten.length < 5) →
      ∃ t, pushAllCr (cs.take j) s = .next t ∧ t.buf = [] ∧
        (candidateOk (cs.take j).flatten = false → t = s))

/-- R109, and R237 (the spec's inference from R103, R104 and R107): leftover noise that does not begin with the start
marker loses the frame that follows, wherever a valid frame stands inside; and a malformed chunk of 5 bytes or more
leaves no trace for the next chunk. -/
def Obligations.CrNoiseAndDrops : Prop :=
  (∀ (s : State) (x : Byte) (xs c : List Byte), x ≠ 0xAA → s.buf ++ c = x :: xs → 4 ≤ xs.length → s.accepts c.length →
    exec (.pushChunkCr c) s = .next { s with buf := [] }) ∧
  (∀ (s : State) (bad good : List Byte), s.buf = [] → 5 ≤ bad.length → candidateOk bad = false → s.accepts bad.length →
    pushAllCr [bad, good] s = exec (.pushChunkCr good) s)

/-! ### Streaming mode -/

/-- R111: the marker search gives the least index of the pair `0xAA 0xC0`, and none exactly when there is no such
pair. -/
def Obligations.MarkerSearchIsLeftmost : Prop :=
  ∀ s : List Byte,
    (∀ i, findMarker s = some i ↔
      (i + 2 ≤ s.length ∧ byteAt s i = 0xAA ∧ byteAt s (i + 1) = 0xC0 ∧
        ∀ j < i, ¬(byteAt s j = 0xAA ∧ byteAt s (j + 1) = 0xC0))) ∧
    (findMarker s = none ↔ ∀ i, i + 2 ≤ s.length → ¬(byteAt s i = 0xAA ∧ byteAt s (i + 1) = 0xC0))

/-- R112, R113, R114, R115: what a chunk does once the front end lets it in, by the bytes then in the buffer. Without
a marker they are kept whole. A marker with fewer than 8 bytes after it is kept, without the bytes before it. With 8
bytes after it, the row STRM.READOUT runs on the first four of them and the rest of the buffer is processed as if it
had arrived next. -/
def Obligations.StreamChunkOutcome : Prop :=
  ∀ s c, s.accepts c.length →
    (NoMarker (s.buf ++ c) → exec (.pushChunkStream c) s = .next { s with buf := s.buf ++ c }) ∧
    (∀ pre post, s.buf ++ c = pre ++ 0xAA :: 0xC0 :: post → BeforeFirstMarker pre → post.length < 8 →
      exec (.pushChunkStream c) s = .next { s with buf := 0xAA :: 0xC0 :: post }) ∧
    (∀ pre p0 p1 p2 p3 p4 p5 p6 p7 rest,
      s.buf ++ c = pre ++ 0xAA :: 0xC0 :: p0 :: p1 :: p2 :: p3 :: p4 :: p5 :: p6 :: p7 :: rest → BeforeFirstMarker pre →
      exec (.pushChunkStream c) s =
        execAll [.strmReadout p0 p1 p2 p3, .pushChunkStream []] { s with buf := rest })

/-- R110, R115: a chunk let in always completes; it emits one `READOUT` for each frame of the greedy parse of the
buffer and the chunk, in stream order, and writes only `BUF` besides. -/
def Obligations.StreamChunkEmitsParsedFrames : Prop :=
  ∀ s c, s.accepts c.length →
    ∃ ps rest, GreedyParse (s.buf ++ c) ps ∧
      exec (.pushChunkStream c) s = .next { s with buf := rest, evq := s.evq ++ ps.map payloadEvent }

/-- R122 (the spec's inference from R112 and R114): after a PUSH_CHUNK.STREAM that passed the front end, there is no
marker in the buffer, or the buffer starts with one and holds at most 9 bytes. -/
def Obligations.StreamBufferSettled : Prop :=
  ∀ s c t, s.accepts c.length → exec (.pushChunkStream c) s = .next t →
    findMarker t.buf = none ∨ (byteAt t.buf 0 = 0xAA ∧ byteAt t.buf 1 = 0xC0 ∧ 2 ≤ t.buf.length ∧ t.buf.length ≤ 9)

/-- R116, and R117 (the spec's inference from R111 and R115): whatever the 8 payload bytes are, a marker among them
included, a frame emits exactly one readout and its payload is never searched again. -/
def Obligations.StreamPayloadIsNeverRescanned : Prop :=
  ∀ (s : State) (p rest : List Byte), s.buf = [] → p.length = 8 → NoMarker rest →
    s.accepts (10 + rest.length) →
    exec (.pushChunkStream (0xAA :: 0xC0 :: (p ++ rest))) s =
      .next { s with buf := rest, evq := s.evq ++ [payloadEvent p] }

/-- Chunk boundaries do not matter in streaming mode (R118, the spec's inference): two chunks one after another leave
the very state that their concatenation leaves, buffer included. -/
def Obligations.StreamChunksConcatenate : Prop :=
  ∀ s c d, s.accepts (c.length + d.length) →
    pushAllStream [c, d] s = exec (.pushChunkStream (c ++ d)) s

/-- R118 (the spec's inference from R111 to R115): in a session that starts with an empty buffer and `OVF = 0` and
ends without a fault, whatever LINK_OPEN and ENCODE transactions stand between the chunks, the `READOUT` events
emitted are those of the greedy left-to-right parse of the whole byte stream delivered, however it is cut into chunks.
RESET, which starts a new stream, and LINK_FAIL, after which chunks are ignored (R192, FailedIsTerminal), are left out
of the session. -/
def Obligations.StreamReadoutsAreTheGreedyParse : Prop :=
  ∀ (is : List Instr) (s t : State), (∀ i ∈ is, isStreamSession i = true) → s.buf = [] → s.link ≠ .failed →
    s.ovf = false → execAll is s = .next t →
    ∃ ps, GreedyParse (is.flatMap chunkBytes) ps ∧
      t.evq.filter isReadout = s.evq.filter isReadout ++ ps.map payloadEvent

/-- The greedy parse of a byte stream exists and is unique, so R118 names one sequence of readouts. -/
def Obligations.GreedyParseIsAFunction : Prop :=
  ∀ b : List Byte, ∃ ps, GreedyParse b ps ∧ ∀ qs, GreedyParse b qs → qs = ps

/-- R121 (informative, the spec's inference from R111 to R113): with no marker in an unbounded buffer, replacing it by
its last byte if that is `0xAA`, and by nothing otherwise, changes no event of any continuation. A continuation is any
list of host transactions with the chunks of the instance's mode, RESET, LINK_OPEN, LINK_FAIL and ENCODE among them, a
reserved tag included and gone past; the two runs end in states that differ at most in the buffer. -/
def Obligations.StreamTrimKeepsEvents : Prop :=
  ∀ (s : State) (is : List Instr), NoMarker s.buf → s.cfg.bufCap = none → (∀ i ∈ is, isStreamTransaction i = true) →
    ∃ (t : State) (b : List Byte), afterAll is s = some t ∧
      afterAll is { s with buf := trimBuf s.buf } = some { t with buf := b }

/-! ### The response decoder and the grades -/

/-- R132 to R138: each response row emits its response, with the fields computed from the bytes it reads, and writes
nothing else; only Readout carries the timestamp, the low `TS_WIDTH` bits of `now` (R147). -/
def Obligations.ResponseRowsEmitTheirResponse : Prop :=
  ∀ s : State,
    (∀ a b c d i j, exec (.rspReadout a b c d i j) s =
      .next { s with evq := s.evq ++ [.response (.readout (BitVec.ofNat 16 (b.toNat * 256 + a.toNat))
        (BitVec.ofNat 16 (d.toNat * 256 + c.toNat)) (BitVec.ofNat 16 (i.toNat * 256 + j.toNat))
        (s.now % 2 ^ s.cfg.tsWidth))] }) ∧
    (∀ y m d i j, exec (.rspVersion y m d i j) s =
      .next { s with evq := s.evq ++ [.response (.version y m d (BitVec.ofNat 16 (i.toNat * 256 + j.toNat)))] }) ∧
    (∀ v, exec (.rspReportingMode v) s =
      .next { s with evq := s.evq ++ [.response (.reportingMode (decide (v = 0)))] }) ∧
    (∀ i j, exec (.rspDeviceIdChanged i j) s =
      .next { s with evq := s.evq ++ [.response (.deviceIdChanged (BitVec.ofNat 16 (i.toNat * 256 + j.toNat)))] }) ∧
    (∀ v, exec (.rspPowerMode v) s = .next { s with evq := s.evq ++ [.response (.powerMode (decide (v = 0)))] }) ∧
    (∀ v, exec (.rspCycle v) s = .next { s with evq := s.evq ++ [.response (.cycle v)] }) ∧
    (∀ f, exec (.rspUnknown f) s = .next { s with evq := s.evq ++ [.response (.unknown f)] })

/-- R132 to R138, on the bytes of a candidate: the response each row of the map gives, by the candidate's TYPE, SUB
and length, with every field computed from the bytes the rule names, and nothing else written. -/
def Obligations.DecodedCandidateEmits : Prop :=
  ∀ (s : State) (f : List Byte) (hL : 5 ≤ f.length),
    (f[1] = 0xC0 → ∀ h : f.length = 10, ∃ pm10 pm25 deviceId : Half,
      pm10.toNat = f[3].toNat * 256 + f[2].toNat ∧ pm25.toNat = f[5].toNat * 256 + f[4].toNat ∧
      deviceId.toNat = f[6].toNat * 256 + f[7].toNat ∧ exec (decodeCandidate f) s =
        .next { s with evq := s.evq ++ [.response (.readout pm10 pm25 deviceId (s.now % 2 ^ s.cfg.tsWidth))] }) ∧
    (f[1] = 0xC5 → f[2] = 0x07 → ∀ h : 8 ≤ f.length, ∃ deviceId : Half,
      deviceId.toNat = f[6].toNat * 256 + f[7].toNat ∧ exec (decodeCandidate f) s =
        .next { s with evq := s.evq ++ [.response (.version f[3] f[4] f[5] deviceId)] }) ∧
    (f[1] = 0xC5 → f[2] = 0x02 → exec (decodeCandidate f) s =
      .next { s with evq := s.evq ++ [.response (.reportingMode (decide (f[4] = 0x00)))] }) ∧
    (f[1] = 0xC5 → f[2] = 0x05 → ∀ h : 8 ≤ f.length, ∃ deviceId : Half,
      deviceId.toNat = f[6].toNat * 256 + f[7].toNat ∧ exec (decodeCandidate f) s =
        .next { s with evq := s.evq ++ [.response (.deviceIdChanged deviceId)] }) ∧
    (f[1] = 0xC5 → f[2] = 0x06 → exec (decodeCandidate f) s =
      .next { s with evq := s.evq ++ [.response (.powerMode (decide (f[4] = 0x00)))] }) ∧
    (f[1] = 0xC5 → f[2] = 0x08 → exec (decodeCandidate f) s =
      .next { s with evq := s.evq ++ [.response (.cycle f[4])] }) ∧
    (¬(f[1] = 0xC0 ∧ f.length = 10) →
      ¬(f[1] = 0xC5 ∧ (f[2] = 0x02 ∨ f[2] = 0x06 ∨ f[2] = 0x08 ∨ (f[2] = 0x05 ∨ f[2] = 0x07) ∧ 8 ≤ f.length)) →
      exec (decodeCandidate f) s = .next { s with evq := s.evq ++ [.response (.unknown f)] })

/-- R130: the decoder is total: every accepted candidate gives exactly one response, whatever its bytes. -/
def Obligations.DecoderIsTotal : Prop :=
  ∀ (f : List Byte) (s : State), candidateOk f = true →
    decode (.rsp f) = .ok (decodeCandidate f) ∧
      ∃ r, exec (decodeCandidate f) s = .next { s with evq := s.evq ++ [.response r] }

/-- R142: the streaming row emits one readout, with both values low byte first and their grades, and writes nothing
else; of the 8 payload bytes the last four are not read. -/
def Obligations.StreamReadoutEmits : Prop :=
  ∀ (s : State) (a b c d : Byte), ∃ pm10 pm25 : Half,
    pm10.toNat = b.toNat * 256 + a.toNat ∧ pm25.toNat = d.toNat * 256 + c.toNat ∧
    exec (.strmReadout a b c d) s =
      .next { s with evq := s.evq ++ [.readout pm10 pm25 (grade10 pm10) (grade25 pm25)] } ∧
    ∀ e f g h : Byte, decode (.strm [0xAA, 0xC0, a, b, c, d, e, f, g, h]) = .ok (.strmReadout a b c d)

/-- R144 (the spec's inference from R143): the two tables of grade bands, over every 16-bit value. -/
def Obligations.GradeTables : Prop :=
  ∀ raw : Half,
    (grade10 raw).val = (if raw.toNat ≤ 199 then 0 else if raw.toNat ≤ 599 then 1 else if raw.toNat ≤ 999 then 2
      else if raw.toNat ≤ 1399 then 3 else if raw.toNat ≤ 1999 then 4 else 5) ∧
    (grade25 raw).val = (if raw.toNat ≤ 119 then 0 else if raw.toNat ≤ 359 then 1 else if raw.toNat ≤ 599 then 2
      else if raw.toNat ≤ 839 then 3 else if raw.toNat ≤ 1199 then 4 else 5)

/-- R145 (the spec's inference from R143): grades are monotone. (That every value has exactly one grade is that they
are functions.) -/
def Obligations.GradesAreMonotone : Prop :=
  ∀ a b : Half, a.toNat ≤ b.toNat → (grade10 a).val ≤ (grade10 b).val ∧ (grade25 a).val ≤ (grade25 b).val

/-! ### The command encoder -/

/-- R163 and R165 (the subtypes are the spec's decision D15, QueryData's its general knowledge G1; log 19): the two
constant frames, and the port tags 0 and 2 with the argument ignored. -/
def Obligations.QueryCommandFrames : Prop :=
  ∀ s : State, s.link ≠ .failed →
    exec .cmdQueryVersion s =
      .next { s with txq := s.txq ++ [0xAA, 0xB4, 0x07, 0, 0, 0, 0, 0, 0, 0, 0, 0, 0, 0, 0, 0xBB, 0xAB] } ∧
    exec .cmdQueryData s =
      .next { s with txq := s.txq ++ [0xAA, 0xB4, 0x04, 0, 0, 0, 0, 0, 0, 0, 0, 0, 0, 0, 0, 0xB8, 0xAB] } ∧
    ∀ arg, decodeCmdPort 0 arg = .cmdQueryVersion ∧ decodeCmdPort 2 arg = .cmdQueryData

/-- R164 and R167 (the second by the spec's decision D15; log 19): the frames of the two mode commands, and their port
tags with bit 0 of the argument; SetPowerMode changes no state of the block but `TXQ` (60_exceptions.md R214). -/
def Obligations.ModeCommandFrames : Prop :=
  ∀ s : State, s.link ≠ .failed →
    exec (.cmdSetReportingMode true) s =
      .next { s with txq := s.txq ++ [0xAA, 0xB4, 0x02, 0x01, 0x00, 0, 0, 0, 0, 0, 0, 0, 0, 0, 0, 0xB7, 0xAB] } ∧
    exec (.cmdSetReportingMode false) s =
      .next { s with txq := s.txq ++ [0xAA, 0xB4, 0x02, 0x01, 0x01, 0, 0, 0, 0, 0, 0, 0, 0, 0, 0, 0xB8, 0xAB] } ∧
    exec (.cmdSetPowerMode true) s =
      .next { s with txq := s.txq ++ [0xAA, 0xB4, 0x06, 0x01, 0x00, 0, 0, 0, 0, 0, 0, 0, 0, 0, 0, 0xBB, 0xAB] } ∧
    exec (.cmdSetPowerMode false) s =
      .next { s with txq := s.txq ++ [0xAA, 0xB4, 0x06, 0x01, 0x01, 0, 0, 0, 0, 0, 0, 0, 0, 0, 0, 0xBC, 0xAB] } ∧
    ∀ arg : Half, decodeCmdPort 1 arg = .cmdSetReportingMode (arg.getLsbD 0) ∧
      decodeCmdPort 4 arg = .cmdSetPowerMode (arg.getLsbD 0)

/-- R166 (the place of the identifier is the spec's decision D15; log 19): the frame of SetDeviceId for every
identifier, high byte first, with its checksum; on the port, tag 3 and the whole argument. -/
def Obligations.SetDeviceIdFrame : Prop :=
  ∀ (s : State) (id : Half), s.link ≠ .failed →
    exec (.cmdSetDeviceId id) s =
      .next { s with txq := s.txq ++ [0xAA, 0xB4, 0x05, 0, 0, 0, 0, 0, 0, 0, 0, 0, 0,
        BitVec.ofNat 8 (id.toNat / 256), BitVec.ofNat 8 (id.toNat % 256),
        BitVec.ofNat 8 (0xB9 + id.toNat / 256 + id.toNat % 256), 0xAB] } ∧
    decodeCmdPort 3 id = .cmdSetDeviceId id

/-- R168 and R170 (subtype and mode-select byte are the spec's decision D15; log 19): the frame of SetCycle for every
natural number, truncated to a byte without a range check; on the port, tag 5 and `arg[7:0]`. -/
def Obligations.SetCycleFrame : Prop :=
  ∀ (s : State) (n : Nat), s.link ≠ .failed →
    exec (.cmdSetCycle n) s =
      .next { s with txq := s.txq ++ [0xAA, 0xB4, 0x08, 0x01, BitVec.ofNat 8 (n % 256), 0, 0, 0, 0, 0, 0, 0, 0, 0, 0,
        BitVec.ofNat 8 (0xBD + n % 256), 0xAB] } ∧
    ∀ arg : Half, decodeCmdPort 5 arg = .cmdSetCycle (arg.toNat % 256)

/-- R160, R161: outside `FAILED` each of the six commands appends one 17-byte frame to `TXQ` and writes nothing else;
the frame has its markers and its command group, and byte 15 is the sum of the 14 body bytes modulo 256. -/
def Obligations.CommandTransmitsOneFrame : Prop :=
  ∀ (s : State) (i : Instr), isCommand i = true → s.link ≠ .failed →
    ∃ body : List Byte, body.length = 14 ∧ byteAt body 0 = 0xB4 ∧
      exec i s = .next { s with txq := s.txq ++
        ([0xAA] ++ body ++ [BitVec.ofNat 8 ((body.map BitVec.toNat).sum % 256), 0xAB]) }

/-- R160, R169, R205: a reserved tag sets `ILLEGAL_CMD`, transmits nothing and is refused, whatever its argument; in
`FAILED` it is ignored as every ENCODE is. -/
def Obligations.ReservedTagIsRefused : Prop :=
  ∀ (s : State) (tag : BitVec 3) (arg : Half),
    (s.link ≠ .failed → exec (.cmdReserved tag arg) s = .refused (.illegalCmd { s with illegalCmd := true })) ∧
    (s.link = .failed → exec (.cmdReserved tag arg) s = .next s) ∧
    decodeCmdPort 6 arg = .cmdReserved 6 arg ∧ decodeCmdPort 7 arg = .cmdReserved 7 arg

/-- R171: the encoder reads no state but `LINK` and writes only `TXQ` and, on a reserved tag, `ILLEGAL_CMD`: two
states of one `LINK` transmit the same bytes for one command, or set `ILLEGAL_CMD` alike, whatever else they hold. -/
def Obligations.EncoderReadsOnlyLink : Prop :=
  (∀ (i : Instr) (s u : State), isCommand i = true → s.link = u.link →
    ∃ t : List Byte, exec i s = .next { s with txq := s.txq ++ t } ∧ exec i u = .next { u with txq := u.txq ++ t }) ∧
  (∀ (tag : BitVec 3) (arg : Half) (s u : State), s.link = u.link →
    ∃ b : Bool, afterStep (exec (.cmdReserved tag arg) s) = some { s with illegalCmd := s.illegalCmd || b } ∧
      afterStep (exec (.cmdReserved tag arg) u) = some { u with illegalCmd := u.illegalCmd || b })

/-- R172 (the spec's inference from R161, R101, R105 and R138): any transmitted command frame, delivered unmodified in
one chunk to an instance in command/response mode with an empty buffer, decodes as `Unknown` of that frame. -/
def Obligations.EchoDecodesAsUnknown : Prop :=
  ∀ (i : Instr) (s u : State), isCommand i = true → s.link ≠ .failed → u.buf = [] → u.accepts 17 →
    ∃ t : List Byte, exec i s = .next { s with txq := s.txq ++ t } ∧ t.length = 17 ∧
      exec (.pushChunkCr t) u = .next { u with evq := u.evq ++ [.response (.unknown t)] }

/-- R173 (the spec's inference from R164 and R168): body byte 3 of SetCycle is `n mod 256`, 5 for 5; body byte 3 of
SetReportingMode(true) is 0, after the mode-select byte 1. -/
def Obligations.BodyValueBytes : Prop :=
  (∀ n, (byteAt (bodySetCycle n) 3).toNat = n % 256) ∧ byteAt (bodySetCycle 5) 3 = 5 ∧
    byteAt (bodySetReportingMode true) 3 = 0 ∧ byteAt (bodySetReportingMode true) 2 = 1

/-! ### Status and event ports -/

/-- R28: the fields of the status port; `LINK` never reads 11, the reserved bits read 000, and after reset only MODE
can be set. -/
def Obligations.StatusPortLayout : Prop :=
  ∀ s : State,
    s.status.extractLsb' 0 2 = (match s.link with | .init => 0b00 | .ready => 0b01 | .failed => 0b10) ∧
    s.status.getLsbD 2 = s.ovf ∧ s.status.getLsbD 3 = s.illegalCmd ∧
    s.status.getLsbD 4 = decide (s.cfg.framingMode = .stream) ∧ s.status.extractLsb' 5 3 = 0b000 ∧
    s.status.extractLsb' 0 2 ≠ 0b11 ∧
    (State.resetWith s.cfg).status = (if s.cfg.framingMode = .stream then 0x10 else 0x00)

/-- R75: the beats of every event: the tag, the named bits of its fields, every field the tag does not use 0; after
the header of an Unknown, whose length the port carries up to 65535, one beat of tag 0xF for each raw byte, in order;
and the port presents the events in order, each one's beats together. Of a field in use only the bits the table names
are stated here; the others are the model's choice (UnnamedEventBitsAreZero, log 25). -/
def Obligations.EventRecordLayout : Prop :=
  Event.beats .ready = [{ tag := 0x0, a := 0, b := 0, c := 0, ts := 0 }] ∧
  (∃ a : Half, Event.beats (.error .linkFail) = [{ tag := 0x1, a := a, b := 0, c := 0, ts := 0 }] ∧
    a.extractLsb' 0 8 = (0x01 : Byte)) ∧
  (∀ p q d t, Event.beats (.response (.readout p q d t)) = [{ tag := 0x2, a := p, b := q, c := d, ts := t }]) ∧
  (∀ (y m d : Byte) i, ∃ a b : Half,
    Event.beats (.response (.version y m d i)) = [{ tag := 0x3, a := a, b := b, c := i, ts := 0 }] ∧
    a.extractLsb' 0 8 = y ∧ a.extractLsb' 8 8 = m ∧ b.extractLsb' 0 8 = d) ∧
  (∀ v, ∃ a : Half, Event.beats (.response (.reportingMode v)) = [{ tag := 0x4, a := a, b := 0, c := 0, ts := 0 }] ∧
    a.getLsbD 0 = v) ∧
  (∀ i, Event.beats (.response (.deviceIdChanged i)) = [{ tag := 0x5, a := 0, b := 0, c := i, ts := 0 }]) ∧
  (∀ v, ∃ a : Half, Event.beats (.response (.powerMode v)) = [{ tag := 0x6, a := a, b := 0, c := 0, ts := 0 }] ∧
    a.getLsbD 0 = v) ∧
  (∀ v : Byte, ∃ a : Half, Event.beats (.response (.cycle v)) = [{ tag := 0x7, a := a, b := 0, c := 0, ts := 0 }] ∧
    a.extractLsb' 0 8 = v) ∧
  (∀ f : List Byte, f.length ≤ 65535 → ∃ (n : Half) (bs : List EventBeat),
    Event.beats (.response (.unknown f)) = { tag := 0x8, a := n, b := 0, c := 0, ts := 0 } :: bs ∧
      n.toNat = f.length ∧ bs.length = f.length ∧
      ∀ x ∈ bs.zip f, ∃ a : Half, x.1 = { tag := 0xF, a := a, b := 0, c := 0, ts := 0 } ∧ a.extractLsb' 0 8 = x.2) ∧
  (∀ p q g h, ∃ c : Half, Event.beats (.readout p q g h) = [{ tag := 0x9, a := p, b := q, c := c, ts := 0 }] ∧
    (c.extractLsb' 0 3).toNat = g.val ∧ (c.extractLsb' 4 3).toNat = h.val) ∧
  (∀ (s : State) (e : Event), State.eventBeats { s with evq := s.evq ++ [e] } = s.eventBeats ++ e.beats)

/-- The model's choice where R75 names only some bits of a field in use (log 25): the other bits are 0. -/
def Obligations.UnnamedEventBitsAreZero : Prop :=
  (∀ b ∈ Event.beats (.error .linkFail), b.a.toNat < 256) ∧
  (∀ y m d i, ∀ b ∈ Event.beats (.response (.version y m d i)), b.b.toNat < 256) ∧
  (∀ v, ∀ b ∈ Event.beats (.response (.reportingMode v)), b.a.toNat < 2) ∧
  (∀ v, ∀ b ∈ Event.beats (.response (.powerMode v)), b.a.toNat < 2) ∧
  (∀ v, ∀ b ∈ Event.beats (.response (.cycle v)), b.a.toNat < 256) ∧
  (∀ f, ∀ b ∈ Event.beats (.response (.unknown f)), b.tag = 0xF → b.a.toNat < 256) ∧
  (∀ p q g h, ∀ b ∈ Event.beats (.readout p q g h), b.c.getLsbD 3 = false ∧ b.c.toNat < 128)

/-! ### Whole-machine rules -/

/-- The state after reset meets the invariant, for every configuration. -/
def Obligations.InvariantAtReset : Prop := ∀ cfg, (State.resetWith cfg).Inv

/-- Every step keeps the invariant, also a step that ends in a fault or a refusal (the state it carries): the buffer
is within its capacity (R25) and as PUSH_CHUNK leaves it (R108, R122), every event is one this configuration emits
(R138, R142, R143, R147), `TXQ` is whole command frames (20_memory.md R50), and no output port has delivered more than
was put on it (R239; log 16). -/
def Obligations.StepKeepsInvariant : Prop := ∀ s t : State, s.Inv → afterStep (step s) = some t → t.Inv

/-- R29, R30, R49: outputs are only appended, by every instruction and every step, whatever its outcome; nothing is
removed or reordered. -/
def Obligations.OutputsAreAppendOnly : Prop :=
  (∀ i s t, afterStep (exec i s) = some t → s.evq <+: t.evq ∧ s.txq <+: t.txq) ∧
  (∀ s t, afterStep (step s) = some t → s.evq <+: t.evq ∧ s.txq <+: t.txq)

/-- R24 to R27: who writes the block's state. Only RESET, LINK_OPEN and LINK_FAIL write `LINK`; only RESET and
PUSH_CHUNK write `BUF`; only PUSH_CHUNK sets `OVF` and only an ENCODE of a reserved tag sets `ILLEGAL_CMD`; only RESET
clears either. -/
def Obligations.WritersOfTheBlockState : Prop :=
  ∀ i s t, afterStep (exec i s) = some t →
    (t.link ≠ s.link → i = .reset ∨ i = .linkOpen ∨ i = .linkFail) ∧
    (t.buf ≠ s.buf → i = .reset ∨ i = .pushChunkCr (chunkBytes i) ∨ i = .pushChunkStream (chunkBytes i)) ∧
    (s.ovf = false → t.ovf = true → i = .pushChunkCr (chunkBytes i) ∨ i = .pushChunkStream (chunkBytes i)) ∧
    (s.ovf = true → t.ovf = false → i = .reset) ∧
    (s.illegalCmd = false → t.illegalCmd = true → ∃ tag arg, i = .cmdReserved tag arg) ∧
    (s.illegalCmd = true → t.illegalCmd = false → i = .reset)

/-- R5, R232: no instruction and no step changes the configuration, whatever its outcome. (That RESET samples the same
fixed configuration is log 1.) -/
def Obligations.ConfigurationIsFixed : Prop :=
  (∀ i s t, afterStep (exec i s) = some t → t.cfg = s.cfg) ∧
  (∀ s t, afterStep (step s) = some t → t.cfg = s.cfg)

/-- R200, R204, R205: nothing stops but an overflow and a reserved tag: a fault is the `OVF` fault of a PUSH_CHUNK
that exceeds the capacity, a refusal is that of an ENCODE with a reserved tag, and both carry the state with only the
sticky bit set. -/
def Obligations.OnlyOverflowAndReservedTagsStop : Prop :=
  (∀ i s r, exec i s = .fault r →
    (i = .pushChunkCr (chunkBytes i) ∨ i = .pushChunkStream (chunkBytes i)) ∧
      fitsCap s.cfg (s.buf.length + (chunkBytes i).length) = false ∧ s.ovf = false ∧ s.link ≠ .failed ∧
      r = .ovf { s with ovf := true }) ∧
  (∀ i s r, exec i s = .refused r →
    (∃ tag arg, i = .cmdReserved tag arg) ∧ s.link ≠ .failed ∧ r = .illegalCmd { s with illegalCmd := true })

/-- R34: only the decoding of a command/response Readout reads `now`. Every instruction but RSP.Readout and a
PUSH_CHUNK.CR whose candidate selects the Readout row does the very same for every value of it; those two do the same,
or append one Readout that differs in its timestamp alone. -/
def Obligations.OnlyCrReadoutReadsNow : Prop :=
  ∀ (i : Instr) (s t : State) (n : Nat), afterStep (exec i s) = some t →
    ((∀ a b c d x y, i ≠ .rspReadout a b c d x y) → (∀ c, i = .pushChunkCr c → rspRow (s.buf ++ c) ≠ .readout) →
      afterStep (exec i { s with now := n }) = some { t with now := n }) ∧
    (afterStep (exec i { s with now := n }) = some { t with now := n } ∨
      ∃ pm10 pm25 deviceId : Half,
        t.evq = s.evq ++ [.response (.readout pm10 pm25 deviceId (s.now % 2 ^ s.cfg.tsWidth))] ∧
        afterStep (exec i { s with now := n }) = some { t with
          now := n,
          evq := s.evq ++ [.response (.readout pm10 pm25 deviceId (n % 2 ^ s.cfg.tsWidth))] })
end

