-- ==== Sys2Proof/Laws/Operands.lean ====
section
/-! SUPPORT. Laws of the operand forms: byte positions, slices, the checksum, field assembly, grades. -/

namespace Sys2Proof.Machine

/-! ### Byte positions and slices -/

@[simp] theorem byteAt_cons_zero (b : Byte) (s : List Byte) : byteAt (b :: s) 0 = b := rfl
@[simp] theorem byteAt_cons_succ (b : Byte) (s : List Byte) (i : Nat) : byteAt (b :: s) (i + 1) = byteAt s i := rfl

theorem byteAt_append_left (s t : List Byte) (i : Nat) (h : i < s.length) : byteAt (s ++ t) i = byteAt s i := by
  simp [byteAt, List.getD_eq_getElem?_getD, List.getElem?_append_left h]

theorem byteAt_append_right (s t : List Byte) (i : Nat) (h : s.length ≤ i) :
    byteAt (s ++ t) i = byteAt t (i - s.length) := by
  simp [byteAt, List.getD_eq_getElem?_getD, List.getElem?_append_right h]

theorem slice_zero (s : List Byte) (j : Nat) : slice s 0 j = s.take j := rfl

/-- The bytes between a first byte and what follows the next `n` bytes. -/
theorem slice_one_cons (b : Byte) (s t : List Byte) (n : Nat) (h : n = s.length + 1) :
    slice (b :: (s ++ t)) 1 n = s := by
  subst h; simp [slice]

theorem slice_length (s : List Byte) (i j : Nat) (h : j ≤ s.length) : (slice s i j).length = j - i := by
  simp [slice, Nat.min_eq_left h]

/-! ### The checksum -/

@[simp] theorem sum8_nil : sum8 [] = 0 := rfl

@[simp] theorem sum8_cons (b : Byte) (s : List Byte) : sum8 (b :: s) = b + sum8 s := by
  simp [sum8, BitVec.ofNat_add]

theorem sum8_append (s t : List Byte) : sum8 (s ++ t) = sum8 s + sum8 t := by
  simp [sum8, BitVec.ofNat_add]

/-! ### Frames around a body -/

theorem markersOk_wrap (b : List Byte) (c : Byte) : markersOk (0xAA :: (b ++ [c, 0xAB])) = true := by
  have h : byteAt (0xAA :: (b ++ [c, 0xAB])) (b.length + 2) = 0xAB := by
    rw [byteAt_cons_succ, byteAt_append_right _ _ _ (by omega)]
    simp
  simpa [markersOk] using h

/-- A body between the start marker, a checksum byte and the end marker passes the validator (R105) exactly when the
byte is the body's sum. -/
theorem csOk_wrap (b : List Byte) (c : Byte) : csOk (0xAA :: (b ++ [c, 0xAB])) = (sum8 b == c) := by
  have h : byteAt (0xAA :: (b ++ [c, 0xAB])) (b.length + 1) = c := by
    rw [byteAt_cons_succ, byteAt_append_right _ _ _ (by omega)]
    simp
  have hl : (0xAA :: (b ++ [c, 0xAB])).length - 2 = b.length + 1 := by simp
  rw [csOk, hl, slice_one_cons _ _ _ _ rfl, h]

theorem candidateOk_rspFrame (b : List Byte) (h : 2 ≤ b.length) : candidateOk (rspFrame b) = true := by
  rw [candidateOk, rspFrame, markersOk_wrap, csOk_wrap]
  simp
  omega

@[simp] theorem cmdBody_length (a b c d e : Byte) : (cmdBody a b c d e).length = 14 := rfl

theorem cmdFrame_eq_rspFrame (b : List Byte) : cmdFrame b = rspFrame b := rfl

@[simp] theorem cmdFrame_length (b : List Byte) : (cmdFrame b).length = b.length + 3 := by simp [cmdFrame]

/-! ### Field assembly -/

theorem u16le_toNat (lo hi : Byte) : (u16le lo hi).toNat = hi.toNat * 256 + lo.toNat := by
  have h1 := hi.isLt
  have h2 := lo.isLt
  rw [u16le, BitVec.toNat_ofNat, Nat.mod_eq_of_lt (by omega)]

theorem devid_toNat (a b : Byte) : (devid a b).toNat = a.toNat * 256 + b.toNat := by
  have h1 := a.isLt
  have h2 := b.isLt
  rw [devid, BitVec.toNat_ofNat, Nat.mod_eq_of_lt (by omega)]

theorem hiByte_toNat (v : Half) : (hiByte v).toNat = v.toNat / 256 := by
  have h := v.isLt
  rw [hiByte, BitVec.toNat_ofNat, Nat.mod_eq_of_lt (by omega)]

theorem loByte_toNat (v : Half) : (loByte v).toNat = v.toNat % 256 := by
  rw [loByte, BitVec.toNat_ofNat]

/-- An identifier split into its bytes and packed again is itself (R66). -/
@[simp] theorem devid_hiByte_loByte (v : Half) : devid (hiByte v) (loByte v) = v := by
  apply BitVec.eq_of_toNat_eq
  rw [devid_toNat, hiByte_toNat, loByte_toNat]
  omega

@[simp] theorem hiByte_devid (a b : Byte) : hiByte (devid a b) = a := by
  apply BitVec.eq_of_toNat_eq
  have := b.isLt
  rw [hiByte_toNat, devid_toNat]
  omega

@[simp] theorem loByte_devid (a b : Byte) : loByte (devid a b) = b := by
  apply BitVec.eq_of_toNat_eq
  have := b.isLt
  rw [loByte_toNat, devid_toNat]
  omega

/-! ### Grades -/

/-- A grade is the least band whose bound exceeds the value (R143): every earlier bound is at most the value. -/
theorem gradeIn_spec (bounds : List Nat) (raw : Half) :
    (∀ j (h : j < bounds.length), j < (gradeIn bounds raw).val → bounds[j] ≤ raw.toNat) ∧
    (∀ h : (gradeIn bounds raw).val < bounds.length, raw.toNat < bounds[(gradeIn bounds raw).val]) := by
  constructor
  · intro j h hj
    have := List.not_of_lt_findIdx hj
    simpa using this
  · intro h
    have := List.findIdx_getElem (w := h)
    exact of_decide_eq_true this

end Sys2Proof.Machine
end

