-- ==== Sys2Proof/Laws/State.lean ====
section
/-! SUPPORT. One lemma for each field of the state under each update, so that no proof unfolds a record update. -/

namespace Sys2Proof.Machine

variable (s : State)

/-! ### setLink -/

@[simp] theorem State.setLink_link (l : Link) : (s.setLink l).link = l := rfl
@[simp] theorem State.setLink_buf (l : Link) : (s.setLink l).buf = s.buf := rfl
@[simp] theorem State.setLink_ovf (l : Link) : (s.setLink l).ovf = s.ovf := rfl
@[simp] theorem State.setLink_illegalCmd (l : Link) : (s.setLink l).illegalCmd = s.illegalCmd := rfl
@[simp] theorem State.setLink_evq (l : Link) : (s.setLink l).evq = s.evq := rfl
@[simp] theorem State.setLink_txq (l : Link) : (s.setLink l).txq = s.txq := rfl
@[simp] theorem State.setLink_evtTaken (l : Link) : (s.setLink l).evtTaken = s.evtTaken := rfl
@[simp] theorem State.setLink_txTaken (l : Link) : (s.setLink l).txTaken = s.txTaken := rfl
@[simp] theorem State.setLink_cfg (l : Link) : (s.setLink l).cfg = s.cfg := rfl
@[simp] theorem State.setLink_now (l : Link) : (s.setLink l).now = s.now := rfl
@[simp] theorem State.setLink_inputs (l : Link) : (s.setLink l).inputs = s.inputs := rfl

/-! ### setBuf -/

@[simp] theorem State.setBuf_link (b : List Byte) : (s.setBuf b).link = s.link := rfl
@[simp] theorem State.setBuf_buf (b : List Byte) : (s.setBuf b).buf = b := rfl
@[simp] theorem State.setBuf_ovf (b : List Byte) : (s.setBuf b).ovf = s.ovf := rfl
@[simp] theorem State.setBuf_illegalCmd (b : List Byte) : (s.setBuf b).illegalCmd = s.illegalCmd := rfl
@[simp] theorem State.setBuf_evq (b : List Byte) : (s.setBuf b).evq = s.evq := rfl
@[simp] theorem State.setBuf_txq (b : List Byte) : (s.setBuf b).txq = s.txq := rfl
@[simp] theorem State.setBuf_evtTaken (b : List Byte) : (s.setBuf b).evtTaken = s.evtTaken := rfl
@[simp] theorem State.setBuf_txTaken (b : List Byte) : (s.setBuf b).txTaken = s.txTaken := rfl
@[simp] theorem State.setBuf_cfg (b : List Byte) : (s.setBuf b).cfg = s.cfg := rfl
@[simp] theorem State.setBuf_now (b : List Byte) : (s.setBuf b).now = s.now := rfl
@[simp] theorem State.setBuf_inputs (b : List Byte) : (s.setBuf b).inputs = s.inputs := rfl

/-! ### emit -/

@[simp] theorem State.emit_link (e : Event) : (s.emit e).link = s.link := rfl
@[simp] theorem State.emit_buf (e : Event) : (s.emit e).buf = s.buf := rfl
@[simp] theorem State.emit_ovf (e : Event) : (s.emit e).ovf = s.ovf := rfl
@[simp] theorem State.emit_illegalCmd (e : Event) : (s.emit e).illegalCmd = s.illegalCmd := rfl
@[simp] theorem State.emit_evq (e : Event) : (s.emit e).evq = s.evq ++ [e] := rfl
@[simp] theorem State.emit_txq (e : Event) : (s.emit e).txq = s.txq := rfl
@[simp] theorem State.emit_evtTaken (e : Event) : (s.emit e).evtTaken = s.evtTaken := rfl
@[simp] theorem State.emit_txTaken (e : Event) : (s.emit e).txTaken = s.txTaken := rfl
@[simp] theorem State.emit_cfg (e : Event) : (s.emit e).cfg = s.cfg := rfl
@[simp] theorem State.emit_now (e : Event) : (s.emit e).now = s.now := rfl
@[simp] theorem State.emit_inputs (e : Event) : (s.emit e).inputs = s.inputs := rfl

/-! ### transmit -/

@[simp] theorem State.transmit_link (t : List Byte) : (s.transmit t).link = s.link := rfl
@[simp] theorem State.transmit_buf (t : List Byte) : (s.transmit t).buf = s.buf := rfl
@[simp] theorem State.transmit_ovf (t : List Byte) : (s.transmit t).ovf = s.ovf := rfl
@[simp] theorem State.transmit_illegalCmd (t : List Byte) : (s.transmit t).illegalCmd = s.illegalCmd := rfl
@[simp] theorem State.transmit_evq (t : List Byte) : (s.transmit t).evq = s.evq := rfl
@[simp] theorem State.transmit_txq (t : List Byte) : (s.transmit t).txq = s.txq ++ t := rfl
@[simp] theorem State.transmit_evtTaken (t : List Byte) : (s.transmit t).evtTaken = s.evtTaken := rfl
@[simp] theorem State.transmit_txTaken (t : List Byte) : (s.transmit t).txTaken = s.txTaken := rfl
@[simp] theorem State.transmit_cfg (t : List Byte) : (s.transmit t).cfg = s.cfg := rfl
@[simp] theorem State.transmit_now (t : List Byte) : (s.transmit t).now = s.now := rfl
@[simp] theorem State.transmit_inputs (t : List Byte) : (s.transmit t).inputs = s.inputs := rfl

/-! ### setOvf -/

@[simp] theorem State.setOvf_link : (s.setOvf).link = s.link := rfl
@[simp] theorem State.setOvf_buf : (s.setOvf).buf = s.buf := rfl
@[simp] theorem State.setOvf_ovf : (s.setOvf).ovf = true := rfl
@[simp] theorem State.setOvf_illegalCmd : (s.setOvf).illegalCmd = s.illegalCmd := rfl
@[simp] theorem State.setOvf_evq : (s.setOvf).evq = s.evq := rfl
@[simp] theorem State.setOvf_txq : (s.setOvf).txq = s.txq := rfl
@[simp] theorem State.setOvf_evtTaken : (s.setOvf).evtTaken = s.evtTaken := rfl
@[simp] theorem State.setOvf_txTaken : (s.setOvf).txTaken = s.txTaken := rfl
@[simp] theorem State.setOvf_cfg : (s.setOvf).cfg = s.cfg := rfl
@[simp] theorem State.setOvf_now : (s.setOvf).now = s.now := rfl
@[simp] theorem State.setOvf_inputs : (s.setOvf).inputs = s.inputs := rfl

/-! ### setIllegalCmd -/

@[simp] theorem State.setIllegalCmd_link : (s.setIllegalCmd).link = s.link := rfl
@[simp] theorem State.setIllegalCmd_buf : (s.setIllegalCmd).buf = s.buf := rfl
@[simp] theorem State.setIllegalCmd_ovf : (s.setIllegalCmd).ovf = s.ovf := rfl
@[simp] theorem State.setIllegalCmd_illegalCmd : (s.setIllegalCmd).illegalCmd = true := rfl
@[simp] theorem State.setIllegalCmd_evq : (s.setIllegalCmd).evq = s.evq := rfl
@[simp] theorem State.setIllegalCmd_txq : (s.setIllegalCmd).txq = s.txq := rfl
@[simp] theorem State.setIllegalCmd_evtTaken : (s.setIllegalCmd).evtTaken = s.evtTaken := rfl
@[simp] theorem State.setIllegalCmd_txTaken : (s.setIllegalCmd).txTaken = s.txTaken := rfl
@[simp] theorem State.setIllegalCmd_cfg : (s.setIllegalCmd).cfg = s.cfg := rfl
@[simp] theorem State.setIllegalCmd_now : (s.setIllegalCmd).now = s.now := rfl
@[simp] theorem State.setIllegalCmd_inputs : (s.setIllegalCmd).inputs = s.inputs := rfl

/-! ### resetBlock -/

@[simp] theorem State.resetBlock_link : (s.resetBlock).link = .init := rfl
@[simp] theorem State.resetBlock_buf : (s.resetBlock).buf = [] := rfl
@[simp] theorem State.resetBlock_ovf : (s.resetBlock).ovf = false := rfl
@[simp] theorem State.resetBlock_illegalCmd : (s.resetBlock).illegalCmd = false := rfl
@[simp] theorem State.resetBlock_evq : (s.resetBlock).evq = s.evq := rfl
@[simp] theorem State.resetBlock_txq : (s.resetBlock).txq = s.txq := rfl
@[simp] theorem State.resetBlock_evtTaken : (s.resetBlock).evtTaken = s.eventBeats.length := rfl
@[simp] theorem State.resetBlock_txTaken : (s.resetBlock).txTaken = s.txq.length := rfl
@[simp] theorem State.resetBlock_cfg : (s.resetBlock).cfg = s.cfg := rfl
@[simp] theorem State.resetBlock_now : (s.resetBlock).now = s.now := rfl
@[simp] theorem State.resetBlock_inputs : (s.resetBlock).inputs = s.inputs := rfl

/-! ### takeOutputs -/

@[simp] theorem State.takeOutputs_link (p : PortCycle) : (s.takeOutputs p).link = s.link := rfl
@[simp] theorem State.takeOutputs_buf (p : PortCycle) : (s.takeOutputs p).buf = s.buf := rfl
@[simp] theorem State.takeOutputs_ovf (p : PortCycle) : (s.takeOutputs p).ovf = s.ovf := rfl
@[simp] theorem State.takeOutputs_illegalCmd (p : PortCycle) : (s.takeOutputs p).illegalCmd = s.illegalCmd := rfl
@[simp] theorem State.takeOutputs_evq (p : PortCycle) : (s.takeOutputs p).evq = s.evq := rfl
@[simp] theorem State.takeOutputs_txq (p : PortCycle) : (s.takeOutputs p).txq = s.txq := rfl
@[simp] theorem State.takeOutputs_cfg (p : PortCycle) : (s.takeOutputs p).cfg = s.cfg := rfl
@[simp] theorem State.takeOutputs_now (p : PortCycle) : (s.takeOutputs p).now = s.now := rfl
@[simp] theorem State.takeOutputs_inputs (p : PortCycle) : (s.takeOutputs p).inputs = s.inputs := rfl
@[simp] theorem State.takeOutputs_evtTaken (p : PortCycle) :
    (s.takeOutputs p).evtTaken = portPlace s.eventBeats.length s.evtTaken p.evtTake := rfl
@[simp] theorem State.takeOutputs_txTaken (p : PortCycle) :
    (s.takeOutputs p).txTaken = portPlace s.txq.length s.txTaken p.txTake := rfl

/-! ### idlePorts -/

@[simp] theorem State.idlePorts_link : s.idlePorts.link = s.link := rfl
@[simp] theorem State.idlePorts_buf : s.idlePorts.buf = s.buf := rfl
@[simp] theorem State.idlePorts_ovf : s.idlePorts.ovf = s.ovf := rfl
@[simp] theorem State.idlePorts_illegalCmd : s.idlePorts.illegalCmd = s.illegalCmd := rfl
@[simp] theorem State.idlePorts_evq : s.idlePorts.evq = s.evq := rfl
@[simp] theorem State.idlePorts_txq : s.idlePorts.txq = s.txq := rfl
@[simp] theorem State.idlePorts_cfg : s.idlePorts.cfg = s.cfg := rfl
@[simp] theorem State.idlePorts_now : s.idlePorts.now = s.now := rfl
@[simp] theorem State.idlePorts_inputs : s.idlePorts.inputs = s.inputs := rfl
@[simp] theorem State.idlePorts_evtTaken : s.idlePorts.evtTaken = s.eventBeats.length := rfl
@[simp] theorem State.idlePorts_txTaken : s.idlePorts.txTaken = s.txq.length := rfl

/-! ### The output ports -/

@[simp] theorem State.takeOutputs_eventBeats (p : PortCycle) : (s.takeOutputs p).eventBeats = s.eventBeats := rfl
@[simp] theorem State.idlePorts_eventBeats : s.idlePorts.eventBeats = s.eventBeats := rfl
@[simp] theorem State.idlePorts_evtValid : s.idlePorts.evtValid = false := by simp [State.evtValid]
@[simp] theorem State.idlePorts_txValid : s.idlePorts.txValid = false := by simp [State.txValid]
@[simp] theorem State.resetBlock_evtValid : s.resetBlock.evtValid = false := State.idlePorts_evtValid _
@[simp] theorem State.resetBlock_txValid : s.resetBlock.txValid = false := State.idlePorts_txValid _
@[simp] theorem State.emit_eventBeats (e : Event) : (s.emit e).eventBeats = s.eventBeats ++ e.beats := by
  simp [State.eventBeats]

/-- A consumer never goes past what a port offers. -/
theorem portPlace_le (offered taken : Nat) (take : Option Nat) : portPlace offered taken take ≤ offered := by
  cases take with
  | none => exact Nat.le_refl _
  | some n => exact Nat.min_le_left _ _

/-- A consumer that accepts all that is offered leaves both output ports idle (R239). -/
theorem State.takeOutputs_all (p : PortCycle) (he : p.evtTake = none) (ht : p.txTake = none) :
    s.takeOutputs p = s.idlePorts := by
  simp [State.takeOutputs, State.idlePorts, portPlace, he, ht]

/-- With both output ports idle the block is ready for the next transaction. -/
@[simp] theorem State.idlePorts_inReady : s.idlePorts.inReady = true := by simp [State.inReady]

/-! ### Equal updates -/

@[simp] theorem State.setBuf_self : s.setBuf s.buf = s := rfl
@[simp] theorem State.setBuf_setBuf (a b : List Byte) : (s.setBuf a).setBuf b = s.setBuf b := rfl
theorem State.emit_setBuf (e : Event) (b : List Byte) : (s.setBuf b).emit e = (s.emit e).setBuf b := rfl
@[simp] theorem State.resetBlock_resetBlock : s.resetBlock.resetBlock = s.resetBlock := rfl
@[simp] theorem State.emit_timestamp (e : Event) : (s.emit e).timestamp = s.timestamp := rfl
@[simp] theorem State.setBuf_timestamp (b : List Byte) : (s.setBuf b).timestamp = s.timestamp := rfl

end Sys2Proof.Machine
end

