-- ==== Sys2Proof/Laws/Ops.lean ====
section
/-! SUPPORT. What the shared operations can do, each said once: the two front ends, the marker search, the passes of
the streaming loop, the runs over responses and readouts, and fetching a transaction. -/

namespace Sys2Proof.Machine

/-! ### The front ends -/

/-- All that PUSH_CHUNK's front end can do (R100, R206). -/
theorem pushFront_cases (process : State → StepOutcome) (c : List Byte) (s : State) :
    (s.link = .failed ∧ pushFront process c s = .next s) ∨
    (s.link ≠ .failed ∧ s.ovf = true ∧ pushFront process c s = .next s) ∨
    (s.link ≠ .failed ∧ s.ovf = false ∧ fitsCap s.cfg (s.buf.length + c.length) = false ∧
      pushFront process c s = .fault (.ovf s.setOvf)) ∨
    (s.accepts c.length ∧ pushFront process c s = process (s.setBuf (s.buf ++ c))) := by
  unfold pushFront State.accepts raiseOvf
  by_cases h1 : s.link = .failed
  · simp [h1]
  · by_cases h2 : s.ovf = true
    · simp [h1, h2]
    · by_cases h3 : fitsCap s.cfg (s.buf.length + c.length) = false
      · simp [h1, h2, h3]
      · simp [h1, h2, h3]

theorem pushFront_accepts (process : State → StepOutcome) (c : List Byte) (s : State) (h : s.accepts c.length) :
    pushFront process c s = process (s.setBuf (s.buf ++ c)) := by
  obtain ⟨h1, h2, h3⟩ := h
  simp [pushFront, h1, h2, h3]

/-- Fewer bytes fit where more do (R102). -/
theorem fitsCap_mono (cfg : Config) (n m : Nat) (h : n ≤ m) (hm : fitsCap cfg m = true) : fitsCap cfg n = true := by
  unfold fitsCap at *
  cases hc : cfg.bufCap <;> simp_all
  omega

/-- All that ENCODE's front end can do for a command (R160). -/
theorem encodeFront_cases (b : List Byte) (s : State) :
    (s.link = .failed ∧ encodeFront b s = .next s) ∨
    (s.link ≠ .failed ∧ encodeFront b s = .next (s.transmit (cmdFrame b))) := by
  unfold encodeFront
  by_cases h : s.link = .failed <;> simp [h]

/-! ### The marker search -/

theorem noMarker_nil : NoMarker [] := by
  intro pre post h; cases pre <;> simp at h

theorem noMarker_singleton (a : Byte) : NoMarker [a] := by
  intro pre post h
  cases pre with
  | nil => simp at h
  | cons x xs => cases xs <;> simp at h

theorem noMarker_cons_cons (a b : Byte) (l : List Byte) :
    NoMarker (a :: b :: l) ↔ ¬(a = 0xAA ∧ b = 0xC0) ∧ NoMarker (b :: l) := by
  constructor
  · intro h
    refine ⟨fun ⟨ha, hb⟩ => h [] l (by simp [ha, hb]), fun pre post e => h (a :: pre) post (by simp [e])⟩
  · rintro ⟨h1, h2⟩ pre post e
    cases pre with
    | nil => simp at e; exact h1 ⟨e.1, e.2.1⟩
    | cons x xs => simp at e; exact h2 xs post e.2

/-- The search finds nothing exactly when there is no marker (R111). -/
theorem findMarker_eq_none_iff (b : List Byte) : findMarker b = none ↔ NoMarker b := by
  induction b with
  | nil => simp [findMarker, noMarker_nil]
  | cons a l ih =>
    cases l with
    | nil => simp [findMarker, noMarker_singleton]
    | cons c l =>
      rw [noMarker_cons_cons, ← ih, findMarker]
      by_cases h : a = 0xAA ∧ c = 0xC0
      · rw [if_pos h]; simp only [h, and_self, not_true_eq_false, false_and, reduceCtorEq]
      · rw [if_neg h, Option.map_eq_none_iff]; exact ⟨fun e => ⟨h, e⟩, fun e => e.2⟩

/-- A marker with no marker before it is the one the search finds (R111: the leftmost). -/
theorem findMarker_append (pre post : List Byte) (h : BeforeFirstMarker pre) :
    findMarker (pre ++ 0xAA :: 0xC0 :: post) = some pre.length := by
  induction pre with
  | nil => simp [findMarker]
  | cons a l ih =>
    cases l with
    | nil => simp [findMarker]
    | cons c l =>
      have h' : ¬(a = 0xAA ∧ c = 0xC0) ∧ NoMarker (c :: (l ++ [0xAA])) := (noMarker_cons_cons a c _).mp h
      have hi := ih h'.2
      simp only [List.cons_append] at hi ⊢
      rw [findMarker, if_neg h'.1, hi]
      simp

/-- What the search finds: the bytes split at the leftmost marker. -/
theorem findMarker_eq_some (b : List Byte) (i : Nat) (h : findMarker b = some i) :
    ∃ pre post, b = pre ++ 0xAA :: 0xC0 :: post ∧ pre.length = i ∧ BeforeFirstMarker pre := by
  induction b generalizing i with
  | nil => simp [findMarker] at h
  | cons a l ih =>
    cases l with
    | nil => simp [findMarker] at h
    | cons c l =>
      rw [findMarker] at h
      by_cases hm : a = 0xAA ∧ c = 0xC0
      · rw [if_pos hm] at h
        refine ⟨[], l, by simp [hm], by simpa using h, noMarker_singleton _⟩
      · rw [if_neg hm] at h
        obtain ⟨j, hj, rfl⟩ := Option.map_eq_some_iff.mp h
        obtain ⟨pre, post, e, hl, hb⟩ := ih j hj
        refine ⟨a :: pre, post, by simp [e], by simp [hl], ?_⟩
        cases pre with
        | nil =>
          simp at e
          exact (noMarker_cons_cons _ _ _).mpr ⟨by simp, noMarker_singleton _⟩
        | cons x xs =>
          simp at e
          rw [e.1] at hm
          exact (noMarker_cons_cons _ _ _).mpr ⟨hm, hb⟩

/-! ### The passes of the streaming loop -/

/-- More fuel than the buffer's length changes nothing. -/
theorem streamPasses_fuel (b : List Byte) (n m : Nat) (hn : b.length ≤ n) (hm : b.length ≤ m) :
    streamPasses n b = streamPasses m b := by
  induction n generalizing b m with
  | zero =>
    have : b = [] := by simpa using hn
    subst this
    cases m <;> simp [streamPasses, findMarker]
  | succ n ih =>
    cases m with
    | zero =>
      have : b = [] := by simpa using hm
      subst this
      simp [streamPasses, findMarker]
    | succ m =>
      rw [streamPasses, streamPasses]
      cases hf : findMarker b with
      | none => rfl
      | some i =>
        dsimp only
        split
        · rfl
        · rename_i hl
          rw [ih _ m (by simp at hl ⊢; omega) (by simp at hl ⊢; omega)]

/-- R112: a buffer without a marker is kept whole. -/
theorem streamParse_noMarker (b : List Byte) (h : NoMarker b) : streamParse b = ([], b) := by
  have hf := (findMarker_eq_none_iff b).mpr h
  unfold streamParse
  cases b.length <;> simp [streamPasses, hf]

/-- R113, R114: a partial frame is kept from its marker on. -/
theorem streamParse_partial (pre post : List Byte) (h : BeforeFirstMarker pre) (hp : post.length < 8) :
    streamParse (pre ++ 0xAA :: 0xC0 :: post) = ([], 0xAA :: 0xC0 :: post) := by
  have hf := findMarker_append pre post h
  have hl : (pre ++ 0xAA :: 0xC0 :: post).length = (pre.length + post.length + 1) + 1 := by simp; omega
  unfold streamParse
  rw [hl, streamPasses, hf]
  simp
  omega

/-- R113, R115: a whole frame is extracted and the rest parsed on. -/
theorem streamParse_frame (pre p rest : List Byte) (h : BeforeFirstMarker pre) (hp : p.length = 8) :
    streamParse (pre ++ 0xAA :: 0xC0 :: (p ++ rest)) = (p :: (streamParse rest).1, (streamParse rest).2) := by
  have hf := findMarker_append pre (p ++ rest) h
  have hl : (pre ++ 0xAA :: 0xC0 :: (p ++ rest)).length = (pre.length + p.length + rest.length + 1) + 1 := by
    simp; omega
  have hs : slice (0xAA :: 0xC0 :: (p ++ rest)) 2 10 = p := by simp [slice, hp]
  unfold streamParse
  rw [hl, streamPasses, hf]
  have hd : (0xAA :: 0xC0 :: (p ++ rest)).drop 10 = rest := by simp [hp]
  have hn : ¬ (0xAA :: 0xC0 :: (p ++ rest)).length < 10 := by simp [hp]
  simp only [List.drop_left, hs, hd, if_neg hn]
  rw [streamPasses_fuel rest _ rest.length (by omega) (le_refl _)]

/-- Every buffer is of one of the three forms of the loop (R112, R114, R115). -/
theorem stream_forms (b : List Byte) :
    NoMarker b ∨
    (∃ pre post, b = pre ++ 0xAA :: 0xC0 :: post ∧ BeforeFirstMarker pre ∧ post.length < 8) ∨
    (∃ pre p rest, b = pre ++ 0xAA :: 0xC0 :: (p ++ rest) ∧ BeforeFirstMarker pre ∧ p.length = 8) := by
  cases hf : findMarker b with
  | none => exact .inl ((findMarker_eq_none_iff b).mp hf)
  | some i =>
    obtain ⟨pre, post, e, -, hb⟩ := findMarker_eq_some b i hf
    by_cases hp : post.length < 8
    · exact .inr (.inl ⟨pre, post, e, hb, hp⟩)
    · exact .inr (.inr ⟨pre, post.take 8, post.drop 8, by simp [e], hb, by simp; omega⟩)

/-- Induction along the loop. -/
theorem stream_induction {P : List Byte → Prop} (none : ∀ b, NoMarker b → P b)
    (part : ∀ pre post, BeforeFirstMarker pre → post.length < 8 → P (pre ++ 0xAA :: 0xC0 :: post))
    (frame : ∀ pre p rest, BeforeFirstMarker pre → p.length = 8 → P rest → P (pre ++ 0xAA :: 0xC0 :: (p ++ rest)))
    (b : List Byte) : P b := by
  induction hn : b.length using Nat.strong_induction_on generalizing b with
  | _ n ih =>
    subst hn
    rcases stream_forms b with h | ⟨pre, post, rfl, h, hp⟩ | ⟨pre, p, rest, rfl, h, hp⟩
    · exact none b h
    · exact part pre post h hp
    · exact frame pre p rest h hp (ih rest.length (by simp; omega) rest rfl)

/-- What the loop leaves is a stopped buffer (R122). -/
theorem streamParse_settled (b : List Byte) : bufSettled .stream (streamParse b).2 = true := by
  refine stream_induction (P := fun b => bufSettled .stream (streamParse b).2 = true) ?_ ?_ ?_ b
  · intro b h; rw [streamParse_noMarker b h]; simp [bufSettled, (findMarker_eq_none_iff b).mpr h]
  · intro pre post h hp; rw [streamParse_partial pre post h hp]
    simp only [bufSettled, Bool.or_eq_true, Bool.and_eq_true, decide_eq_true_eq]
    exact .inr ⟨rfl, by simp; omega⟩
  · intro pre p rest h hp ih; rw [streamParse_frame pre p rest h hp]; exact ih

/-- The loop leaves no more than it was given. -/
theorem streamParse_length_le (b : List Byte) : (streamParse b).2.length ≤ b.length := by
  refine stream_induction (P := fun b => (streamParse b).2.length ≤ b.length) ?_ ?_ ?_ b
  · intro b h; rw [streamParse_noMarker b h]
  · intro pre post h hp; rw [streamParse_partial pre post h hp]; simp
  · intro pre p rest h hp ih; rw [streamParse_frame pre p rest h hp]; simp at ih ⊢; omega

/-- Parsing what comes later on top of what is left is parsing it all at once. -/
theorem streamParse_append (b d : List Byte) : streamParse (b ++ d) =
   ((streamParse b).1 ++ (streamParse ((streamParse b).2 ++ d)).1, (streamParse ((streamParse b).2 ++ d)).2) := by
  refine stream_induction (P := fun b => streamParse (b ++ d) =
   ((streamParse b).1 ++ (streamParse ((streamParse b).2 ++ d)).1, (streamParse ((streamParse b).2 ++ d)).2)) ?_ ?_ ?_ b
  · intro b h; rw [streamParse_noMarker b h]; simp
  · intro pre post h hp
    rw [streamParse_partial pre post h hp]
    simp only [List.nil_append, List.append_assoc, List.cons_append]
    by_cases hl : (post ++ d).length < 8
    · rw [streamParse_partial pre _ h hl]
      have := streamParse_partial [] (post ++ d) (noMarker_singleton _) hl
      simp only [List.nil_append] at this
      rw [this]
    · have e : post ++ d = (post ++ d).take 8 ++ (post ++ d).drop 8 := (List.take_append_drop _ _).symm
      rw [e]
      have h8 : ((post ++ d).take 8).length = 8 := by simp at hl ⊢; omega
      rw [streamParse_frame pre _ _ h h8]
      have := streamParse_frame [] ((post ++ d).take 8) ((post ++ d).drop 8) (noMarker_singleton _) h8
      simp only [List.nil_append] at this
      rw [this]
  · intro pre p rest h hp ih
    rw [streamParse_frame pre p rest h hp]
    simp only [List.append_assoc, List.cons_append]
    rw [streamParse_frame pre p (rest ++ d) h hp, ih]

/-! ### Responses and readouts -/

/-- Running the readouts of extracted frames emits their events, in order, and nothing else (R115). -/
theorem runReadouts_eq (ps : List (List Byte)) (s : State) :
    runReadouts ps s = .next { s with evq := s.evq ++ ps.map payloadEvent } := by
  induction ps generalizing s with
  | nil => simp [runReadouts]
  | cons p ps ih => simp [runReadouts, execStrmReadout, ih, State.emit, payloadEvent]

/-- `STREAM_PROCESS` in one equation. -/
theorem streamProcess_eq (s : State) :
    streamProcess s =
      .next { s with buf := (streamParse s.buf).2, evq := s.evq ++ (streamParse s.buf).1.map payloadEvent } := by
  simp [streamProcess, runReadouts_eq, State.setBuf]

/-- A decoded candidate emits one response and writes nothing else (R107). -/
theorem runResponse_cases (f : List Byte) (s : State) : ∃ r, runResponse f s = .next (s.emit (.response r)) := by
  unfold runResponse
  cases rspRow f <;> exact ⟨_, rfl⟩

/-- Running the response of a candidate is executing the instruction it decodes to (R107, R131). -/
theorem runResponse_eq_exec (f : List Byte) (s : State) : runResponse f s = exec (decodeCandidate f) s := by
  unfold runResponse decodeCandidate
  cases rspRow f <;> rfl

/-- All that `CR_PROCESS` can do (R101): keep a short buffer, drop a candidate, or decode it. -/
theorem crProcess_cases (s : State) :
    (s.buf.length < 5 ∧ crProcess s = .next s) ∨
    (5 ≤ s.buf.length ∧ candidateOk s.buf = false ∧ crProcess s = .next (s.setBuf [])) ∨
    (candidateOk s.buf = true ∧ crProcess s = runResponse s.buf (s.setBuf [])) := by
  unfold crProcess judgeCandidate candidateOk
  by_cases h1 : s.buf.length < 5
  · simp [h1]
  · have h5 : 5 ≤ s.buf.length := by omega
    by_cases h2 : markersOk s.buf = true
    · by_cases h3 : csOk s.buf = true
      · simp [h1, h2, h3, h5]
      · simp [h1, h2, h3, h5]
    · simp [h1, h2, h5]

/-- `CR_PROCESS` always completes (R101). -/
theorem crProcess_next (s : State) : ∃ t, crProcess s = .next t := by
  rcases crProcess_cases s with ⟨_, e⟩ | ⟨_, _, e⟩ | ⟨_, e⟩
  · exact ⟨_, e⟩
  · exact ⟨_, e⟩
  · obtain ⟨r, hr⟩ := runResponse_cases s.buf (s.setBuf [])
    exact ⟨_, e.trans hr⟩

/-- 17 bytes are a start byte, a body of 14, a checksum byte and an end byte. -/
theorem frame_split (t : List Byte) (h : t.length = 17) :
    t = byteAt t 0 :: (slice t 1 15 ++ [byteAt t 15, byteAt t 16]) := by
  match t, h with
  | [_, _, _, _, _, _, _, _, _, _, _, _, _, _, _, _, _], _ => rfl

/-- What the command frame decoder accepts is a body of 14 bytes in its frame (R64, R161). -/
theorem decodeCmd_frame (t : List Byte) (i : Instr) (h : decodeCmd t = .ok i) :
    t.length = 17 ∧ t = cmdFrame (slice t 1 15) := by
  unfold decodeCmd at h
  split at h
  · cases h
  split at h
  · cases h
  split at h
  · cases h
  split at h
  · cases h
  rename_i h1 h2 h3 h4
  have h1 : t.length = 17 := by simpa using h1
  refine ⟨h1, ?_⟩
  have e := frame_split t h1
  rw [not_not.mp h2, not_not.mp h3, ← not_not.mp h4] at e
  exact e

/-! ### Fetch -/

/-- What is left of a cycle keeps its `now`. -/
theorem nextTxn_now (mode : FramingMode) (p p' : PortCycle) (i : Instr) (h : nextTxn mode p = some (i, p')) :
    p'.now = p.now := by
  unfold nextTxn at h
  split at h
  · cases h; rfl
  split at h
  · cases h; rfl
  split at h
  · cases h; rfl
  split at h
  · cases h; rfl
  split at h
  · cases h; rfl
  · cases h

/-- The ports present host transactions only, in the row of the instance's framing mode (R71, R74). -/
theorem nextTxn_transaction (mode : FramingMode) (p p' : PortCycle) (i : Instr) (h : nextTxn mode p = some (i, p')) :
    isTransaction i = true ∧ (∀ c, i = .pushChunkCr c → mode = .cr) ∧ (∀ c, i = .pushChunkStream c → mode = .stream) := by
  unfold nextTxn at h
  split at h
  · cases h; simp [isTransaction]
  split at h
  · cases h; simp [isTransaction]
  split at h
  · cases h; simp [isTransaction]
  split at h
  · cases h; cases mode <;> simp [pushChunkRow, isTransaction]
  split at h
  · cases h
    unfold decodeCmdPort
    split_ifs <;> simp [isTransaction]
  · cases h

/-- All that one step can do: wait with nothing presented, pass a cycle, hold a transaction while outputs are offered,
or run the transaction fetched. -/
theorem step_cases (s : State) :
    (s.inputs = [] ∧ step s = .next s) ∨
    (∃ p ps, s.inputs = p :: ps ∧ nextTxn s.cfg.framingMode p = none ∧
      step s = .next { s.takeOutputs p with inputs := ps }) ∨
    (∃ p ps, s.inputs = p :: ps ∧ p.rst = false ∧ (s.takeOutputs p).inReady = false ∧
      step s = .next (s.takeOutputs p)) ∨
    (∃ p ps i p', s.inputs = p :: ps ∧ nextTxn s.cfg.framingMode p = some (i, p') ∧
      (p.rst = true ∨ (s.takeOutputs p).inReady = true) ∧
      step s = exec i { s.takeOutputs p with now := p.now, inputs := p'.rest ++ ps }) := by
  unfold step fetch
  cases hi : s.inputs with
  | nil => simp
  | cons p ps =>
    cases hn : nextTxn s.cfg.framingMode p with
    | none => simp [hn]
    | some x =>
      obtain ⟨i, p'⟩ := x
      cases hr : p.rst <;> cases hd : (s.takeOutputs p).inReady <;> simp [hn, hr, hd]

/-- The next transaction of a cycle is what the decoder reads from the cycle's signals. -/
theorem decode_txn (mode : FramingMode) (p p' : PortCycle) (i : Instr) (h : nextTxn mode p = some (i, p')) :
    decode (.txn mode p) = .ok i := by
  simp [decode, h]

end Sys2Proof.Machine
end

