-- ==== Sys2Proof/Laws/PerInstr.lean ====
section
/-! SUPPORT. A statement about every instruction as syntax, one lemma a constructor. Family EncodedFormat: the form in
which a row is encoded has the shape 30_encoding.md gives it (R60, R64, R74, R76). -/

namespace Sys2Proof.Laws.EncodedFormat

open Sys2Proof Sys2Proof.Machine

/-- A command is encoded as a CMD frame of 17 bytes, a response row as a candidate the synchronizer accepts, a
streaming row as a STRM frame of 10 bytes, every other row as port signals. -/
def Statement (i : Instr) : Prop :=
  WellFormed i →
    match encode i with
    | .cmd t => isCommand i = true ∧ t.length = 17
    | .rsp f => isTransaction i = false ∧ candidateOk f = true
    | .strm s => isTransaction i = false ∧ s.length = 10
    | .txn _ _ => isTransaction i = true ∧ isCommand i = false

theorem reset : Statement .reset := fun _ => ⟨rfl, rfl⟩
theorem linkOpen : Statement .linkOpen := fun _ => ⟨rfl, rfl⟩
theorem linkFail : Statement .linkFail := fun _ => ⟨rfl, rfl⟩
theorem pushChunkCr (c : List Byte) : Statement (.pushChunkCr c) := fun _ => ⟨rfl, rfl⟩
theorem pushChunkStream (c : List Byte) : Statement (.pushChunkStream c) := fun _ => ⟨rfl, rfl⟩
theorem cmdQueryVersion : Statement .cmdQueryVersion := fun _ => ⟨rfl, rfl⟩
theorem cmdSetReportingMode (active : Bool) : Statement (.cmdSetReportingMode active) := fun _ => ⟨rfl, rfl⟩
theorem cmdQueryData : Statement .cmdQueryData := fun _ => ⟨rfl, rfl⟩
theorem cmdSetDeviceId (id : Half) : Statement (.cmdSetDeviceId id) := fun _ => ⟨rfl, rfl⟩
theorem cmdSetPowerMode (sleep : Bool) : Statement (.cmdSetPowerMode sleep) := fun _ => ⟨rfl, rfl⟩
theorem cmdSetCycle (n : Nat) : Statement (.cmdSetCycle n) := fun _ => ⟨rfl, rfl⟩
theorem cmdReserved (tag : BitVec 3) (arg : Half) : Statement (.cmdReserved tag arg) := fun _ => ⟨rfl, rfl⟩
theorem rspReadout (a b c d i j : Byte) : Statement (.rspReadout a b c d i j) :=
  fun _ => ⟨rfl, candidateOk_rspFrame _ (by simp)⟩
theorem rspVersion (y m d i j : Byte) : Statement (.rspVersion y m d i j) :=
  fun _ => ⟨rfl, candidateOk_rspFrame _ (by simp)⟩
theorem rspReportingMode (v : Byte) : Statement (.rspReportingMode v) :=
  fun _ => ⟨rfl, candidateOk_rspFrame _ (by simp)⟩
theorem rspDeviceIdChanged (i j : Byte) : Statement (.rspDeviceIdChanged i j) :=
  fun _ => ⟨rfl, candidateOk_rspFrame _ (by simp)⟩
theorem rspPowerMode (v : Byte) : Statement (.rspPowerMode v) := fun _ => ⟨rfl, candidateOk_rspFrame _ (by simp)⟩
theorem rspCycle (v : Byte) : Statement (.rspCycle v) := fun _ => ⟨rfl, candidateOk_rspFrame _ (by simp)⟩
theorem rspUnknown (rawBytes : List Byte) : Statement (.rspUnknown rawBytes) :=
  fun h => ⟨rfl, (Bool.and_eq_true_iff.mp h).1⟩
theorem strmReadout (a b c d : Byte) : Statement (.strmReadout a b c d) := fun _ => ⟨rfl, rfl⟩

end Sys2Proof.Laws.EncodedFormat
end

