-- ==== Sys2Proof/Tests/Slice0.lean ====
section
/-! SUPPORT. The model's own tests. Expected values come from spec/95_test_vectors.md (the vector is named at each
test) or are written out from the encodings of spec/30_encoding.md. First the checks of WellFormed, then one decoding
a constructor, at most two steps an instruction, and for each obligation with hypotheses a witness that meets them. -/

namespace Sys2Proof.Tests.Slice0

open Sys2Proof Sys2Proof.Machine

/-! ### Small states -/

/-- An instance in `READY` with nothing buffered; `now` is 77. -/
def ready (mode : FramingMode) (cap : Option Nat) : State :=
  { State.resetWith { framingMode := mode, bufCap := cap, tsWidth := 32 } with link := .ready, now := 77 }

/-- CR mode, unbounded buffer. -/
abbrev sCr : State := ready .cr none

/-- STREAM mode, unbounded buffer. -/
abbrev sStream : State := ready .stream none

/-- STREAM mode, `BUF_CAP = 16`, ten zero bytes buffered (the state of T-ST12 before its second chunk). -/
abbrev sCap : State := { ready .stream (some 16) with buf := [0, 0, 0, 0, 0, 0, 0, 0, 0, 0] }

/-- CR mode after a link failure. -/
abbrev sFailed : State := { sCr with link := .failed }

/-- `s` with one cycle presented on the ports. -/
def presenting (p : PortCycle) (s : State) : State := { s with inputs := [p] }

/-- The next state, if there is one. -/
def nextOf : StepOutcome → Option State
  | .next s => some s
  | .fault _ => none
  | .refused _ => none

/-- The state a fault carries. -/
def faultOf : StepOutcome → Option State
  | .fault (.ovf s) => some s
  | .next _ => none
  | .refused _ => none

/-- The state a refusal carries. -/
def refusalOf : StepOutcome → Option State
  | .next _ => none
  | .fault _ => none
  | .refused (.illegalCmd s) => some s
  | .refused _ => none

/-- The readout frame of T-DE1. -/
abbrev fReadout : List Byte := [0xAA, 0xC0, 0xD4, 0x04, 0x3A, 0x0A, 0xA4, 0xD2, 0x52, 0xAB]

/-- The readout event of T-DE1, sampled at `now = 77`. -/
abbrev eReadout : Event := .response (.readout 1236 2618 0xA4D2 77)

/-! ### WellFormed refuses -/

theorem test_wellFormed_setCycle_field : ¬ WellFormed (.cmdSetCycle 256) := by decide
theorem test_wellFormed_reserved_tag : ¬ WellFormed (.cmdReserved 5 0) := by decide
theorem test_wellFormed_unknown_short : ¬ WellFormed (.rspUnknown [0xAA, 0x00, 0x00, 0xAB]) := by decide
theorem test_wellFormed_unknown_start : ¬ WellFormed (.rspUnknown [0xAB, 0x00, 0x00, 0x00, 0xAB]) := by decide
theorem test_wellFormed_unknown_end : ¬ WellFormed (.rspUnknown [0xAA, 0x00, 0x00, 0x00, 0xAC]) := by decide
theorem test_wellFormed_unknown_checksum : ¬ WellFormed (.rspUnknown [0xAA, 0x00, 0x00, 0x01, 0xAB]) := by decide
theorem test_wellFormed_unknown_row : ¬ WellFormed (.rspUnknown fReadout) := by decide

/-! ### Decoding, one word for each constructor -/

theorem test_decode_reset : decode (.txn .cr { rst := true }) = .ok .reset := rfl
theorem test_decode_linkOpen : decode (.txn .cr { linkOpen := true }) = .ok .linkOpen := rfl
theorem test_decode_linkFail : decode (.txn .stream { linkFail := true }) = .ok .linkFail := rfl

/-- R74: two bytes, a beat without a byte between them, ended by a beat that carries one. -/
def twoBytes : RxChunk :=
  { body := [{ valid := true, data := 0xAA }, { valid := false, data := 0x55 }], last := { valid := true, data := 0xC0 } }

theorem test_decode_pushChunkCr : decode (.txn .cr { rx := some twoBytes }) = .ok (.pushChunkCr [0xAA, 0xC0]) := rfl
theorem test_decode_pushChunkStream :
    decode (.txn .stream { rx := some twoBytes }) = .ok (.pushChunkStream [0xAA, 0xC0]) := rfl

/-- R74: the empty chunk, one beat that ends it and carries no byte. -/
theorem test_decode_empty_chunk :
    decode (.txn .cr { rx := some { body := [], last := { valid := false, data := 0x11 } } }) = .ok (.pushChunkCr []) := rfl

/-- T-EN1. -/
theorem test_decode_queryVersion :
    decode (.cmd [0xAA, 0xB4, 0x07, 0, 0, 0, 0, 0, 0, 0, 0, 0, 0, 0, 0, 0xBB, 0xAB]) = .ok .cmdQueryVersion := rfl
/-- T-EN3. -/
theorem test_decode_setReportingMode :
    decode (.cmd [0xAA, 0xB4, 0x02, 1, 1, 0, 0, 0, 0, 0, 0, 0, 0, 0, 0, 0xB8, 0xAB]) =
      .ok (.cmdSetReportingMode false) := rfl
/-- T-EN4. -/
theorem test_decode_queryData :
    decode (.cmd [0xAA, 0xB4, 0x04, 0, 0, 0, 0, 0, 0, 0, 0, 0, 0, 0, 0, 0xB8, 0xAB]) = .ok .cmdQueryData := rfl
/-- T-EN5. -/
theorem test_decode_setDeviceId :
    decode (.cmd [0xAA, 0xB4, 0x05, 0, 0, 0, 0, 0, 0, 0, 0, 0, 0, 0xA1, 0x60, 0xBA, 0xAB]) =
      .ok (.cmdSetDeviceId 0xA160) := rfl
/-- T-EN8. -/
theorem test_decode_setPowerMode :
    decode (.cmd [0xAA, 0xB4, 0x06, 1, 0, 0, 0, 0, 0, 0, 0, 0, 0, 0, 0, 0xBB, 0xAB]) = .ok (.cmdSetPowerMode true) := rfl
/-- T-EN13. -/
theorem test_decode_setCycle :
    decode (.cmd [0xAA, 0xB4, 0x08, 1, 0xFF, 0, 0, 0, 0, 0, 0, 0, 0, 0, 0, 0xBC, 0xAB]) = .ok (.cmdSetCycle 255) := rfl
/-- A value byte other than 0 and 1 is no SetPowerMode frame (R167); its checksum is right. -/
theorem test_decode_setPowerMode_value :
    decode (.cmd [0xAA, 0xB4, 0x06, 1, 2, 0, 0, 0, 0, 0, 0, 0, 0, 0, 0, 0xBD, 0xAB]) = .error .unknownCommand := rfl
/-- R68, R70. -/
theorem test_decode_reserved : decode (.txn .cr { cmd := some { tag := 6, arg := 0x1234 } }) =
    .ok (.cmdReserved 6 0x1234) := rfl
/-- R68: SetCycle takes `arg[7:0]`. -/
theorem test_decode_port_setCycle : decode (.txn .cr { cmd := some { tag := 5, arg := 0xFF05 } }) =
    .ok (.cmdSetCycle 5) := rfl
/-- T-DE1. -/
theorem test_decode_readout : decode (.rsp fReadout) = .ok (.rspReadout 0xD4 0x04 0x3A 0x0A 0xA4 0xD2) := rfl
/-- T-DE18: the identifier bytes are the checksum and the end marker. -/
theorem test_decode_version : decode (.rsp [0xAA, 0xC5, 0x07, 0x01, 0x02, 0x03, 0xD2, 0xAB]) =
    .ok (.rspVersion 1 2 3 0xD2 0xAB) := rfl
/-- T-DE14: the value byte is the end marker. -/
theorem test_decode_reportingMode : decode (.rsp [0xAA, 0xC5, 0x02, 0xC7, 0xAB]) = .ok (.rspReportingMode 0xAB) := rfl
/-- T-DE6. -/
theorem test_decode_deviceIdChanged :
    decode (.rsp [0xAA, 0xC5, 0x05, 0x00, 0x00, 0x00, 0xA1, 0x60, 0xCB, 0xAB]) =
      .ok (.rspDeviceIdChanged 0xA1 0x60) := rfl
/-- T-DE7. -/
theorem test_decode_powerMode :
    decode (.rsp [0xAA, 0xC5, 0x06, 0x01, 0x00, 0x00, 0xA1, 0x60, 0xCD, 0xAB]) = .ok (.rspPowerMode 0) := rfl
/-- T-DE16: the value byte is the checksum. -/
theorem test_decode_cycle : decode (.rsp [0xAA, 0xC5, 0x08, 0x01, 0xCE, 0xAB]) = .ok (.rspCycle 0xCE) := rfl
/-- T-DE20: nine bytes are no Readout. -/
theorem test_decode_unknown : decode (.rsp [0xAA, 0xC0, 0x01, 0x02, 0x03, 0x04, 0x05, 0xCF, 0xAB]) =
    .ok (.rspUnknown [0xAA, 0xC0, 0x01, 0x02, 0x03, 0x04, 0x05, 0xCF, 0xAB]) := rfl
/-- T-DE22: the datasheet's frame has a wrong checksum. -/
theorem test_decode_badChecksum :
    decode (.rsp [0xAA, 0xC0, 0xD4, 0x04, 0x3A, 0x0A, 0xA1, 0x60, 0x1D, 0xAB]) = .error .badChecksum := rfl
/-- T-ST8: nothing after the marker is validated. -/
theorem test_decode_strmReadout : decode (.strm [0xAA, 0xC0, 0xFF, 0xFF, 0xFF, 0xFF, 0x00, 0x00, 0x00, 0x00]) =
    .ok (.strmReadout 0xFF 0xFF 0xFF 0xFF) := rfl

/-- The table's row RSP.Version as its three bytes, first byte in bits 7..0, runs as the first step after reset. -/
theorem test_table_word : decodeTableWord 24 0x07C5AA = some (.rspVersion 0 0 0 0 0) ∧
    (nextOf (step (State.reset.withFetchWord 24 0x07C5AA))).map State.evq =
      some [.response (.version 0 0 0 0)] := by decide

/-! ### One step -/

/-- P2: RESET leaves what was emitted. -/
theorem test_reset : nextOf (exec .reset { sCap with ovf := true, illegalCmd := true, evq := [.ready] }) =
    some { sCap with link := .init, buf := [], ovf := false, illegalCmd := false, evq := [.ready], evtTaken := 1 } := by decide
/-- R231, R240: a RESET in the middle of delivery leaves both output ports idle. -/
theorem test_reset_ports : (nextOf (exec .reset { sCr with evq := [.ready], txq := [0xAA, 0xB4], txTaken := 1 })).map
    (fun t => (t.evtValid, t.txValid, t.evq, t.txq)) = some (false, false, [.ready], [0xAA, 0xB4]) := by decide

theorem test_linkOpen : (nextOf (exec .linkOpen State.reset)).map (fun t => (t.status, t.evq)) =
    some (0x01, [.ready]) := by decide
theorem test_linkOpen_failed : nextOf (exec .linkOpen sFailed) = some sFailed := by decide
theorem test_linkFail : (nextOf (exec .linkFail sCr)).map (fun t => (t.status, t.evq)) =
    some (0x02, [.error .linkFail]) := by decide
theorem test_linkFail_twice : nextOf (exec .linkFail sFailed) = some sFailed := by decide

/-- T-CR7, second chunk. -/
theorem test_pushChunkCr_split :
    nextOf (exec (.pushChunkCr [0x3A, 0x0A, 0xA4, 0xD2, 0x52, 0xAB]) { sCr with buf := [0xAA, 0xC0, 0xD4, 0x04] }) =
      some { sCr with evq := [eReadout] } := by decide
/-- T-DE21: a wrong checksum is dropped without an event. -/
theorem test_pushChunkCr_drop :
    nextOf (exec (.pushChunkCr [0xAA, 0xC0, 0xD4, 0x04, 0x3A, 0x0A, 0xA4, 0xD2, 0x53, 0xAB]) sCr) = some sCr := by decide
/-- T-ST4: a marker inside the payload is not searched again. -/
theorem test_pushChunkStream_payload :
    nextOf (exec (.pushChunkStream [0xAA, 0xC0, 0xAA, 0xC0, 1, 2, 3, 4, 5, 6, 7, 8]) sStream) =
      some { sStream with buf := [7, 8], evq := [.readout 49322 513 5 2] } := by decide
/-- T-ST12: the chunk that would exceed the capacity faults and is discarded. -/
theorem test_pushChunkStream_ovf :
    faultOf (exec (.pushChunkStream [0xAA, 0xC0, 0, 0, 0, 0, 0]) sCap) = some { sCap with ovf := true } := by decide

/-- T-EN1. -/
theorem test_queryVersion : (nextOf (exec .cmdQueryVersion sCr)).map State.txq =
    some [0xAA, 0xB4, 0x07, 0, 0, 0, 0, 0, 0, 0, 0, 0, 0, 0, 0, 0xBB, 0xAB] := by decide
/-- T-EN20. -/
theorem test_queryVersion_failed : nextOf (exec .cmdQueryVersion sFailed) = some sFailed := by decide
/-- T-EN2. -/
theorem test_setReportingMode : (nextOf (exec (.cmdSetReportingMode true) sCr)).map State.txq =
    some [0xAA, 0xB4, 0x02, 1, 0, 0, 0, 0, 0, 0, 0, 0, 0, 0, 0, 0xB7, 0xAB] := by decide
/-- T-EN4. -/
theorem test_queryData : (nextOf (exec .cmdQueryData sCr)).map State.txq =
    some [0xAA, 0xB4, 0x04, 0, 0, 0, 0, 0, 0, 0, 0, 0, 0, 0, 0, 0xB8, 0xAB] := by decide
/-- T-EN7: the checksum wraps. -/
theorem test_setDeviceId : (nextOf (exec (.cmdSetDeviceId 0xFFFF) sCr)).map State.txq =
    some [0xAA, 0xB4, 0x05, 0, 0, 0, 0, 0, 0, 0, 0, 0, 0, 0xFF, 0xFF, 0xB7, 0xAB] := by decide
/-- T-EN9. -/
theorem test_setPowerMode : (nextOf (exec (.cmdSetPowerMode false) sCr)).map State.txq =
    some [0xAA, 0xB4, 0x06, 1, 1, 0, 0, 0, 0, 0, 0, 0, 0, 0, 0, 0xBC, 0xAB] := by decide
/-- T-EN15: 261 is sent as 5. -/
theorem test_setCycle : (nextOf (exec (.cmdSetCycle 261) sCr)).map State.txq =
    some [0xAA, 0xB4, 0x08, 1, 5, 0, 0, 0, 0, 0, 0, 0, 0, 0, 0, 0xC2, 0xAB] := by decide
/-- T-EN18. -/
theorem test_reserved : refusalOf (exec (.cmdReserved 6 0) sCr) = some { sCr with illegalCmd := true } := by decide
/-- R192: ignored after a failure. -/
theorem test_reserved_failed : nextOf (exec (.cmdReserved 7 0) sFailed) = some sFailed := by decide

/-- T-DE1. -/
theorem test_rspReadout : (nextOf (exec (.rspReadout 0xD4 0x04 0x3A 0x0A 0xA4 0xD2) sCr)).map State.evq =
    some [eReadout] := by decide
/-- T-DE3. -/
theorem test_rspVersion : (nextOf (exec (.rspVersion 0x0F 0x07 0x0A 0xA1 0x60) sCr)).map State.evq =
    some [.response (.version 15 7 10 0xA160)] := by decide
/-- T-DE4, T-DE5. -/
theorem test_rspReportingMode : (nextOf (exec (.rspReportingMode 0) sCr)).map State.evq =
      some [.response (.reportingMode true)] ∧
    (nextOf (exec (.rspReportingMode 1) sCr)).map State.evq = some [.response (.reportingMode false)] := by decide
/-- T-DE6. -/
theorem test_rspDeviceIdChanged : (nextOf (exec (.rspDeviceIdChanged 0xA1 0x60) sCr)).map State.evq =
    some [.response (.deviceIdChanged 0xA160)] := by decide
/-- T-DE7, T-DE8. -/
theorem test_rspPowerMode : (nextOf (exec (.rspPowerMode 0) sCr)).map State.evq =
      some [.response (.powerMode true)] ∧
    (nextOf (exec (.rspPowerMode 1) sCr)).map State.evq = some [.response (.powerMode false)] := by decide
/-- T-DE10: no range check. -/
theorem test_rspCycle : (nextOf (exec (.rspCycle 0xFF) sCr)).map State.evq = some [.response (.cycle 255)] := by decide
/-- T-DE13. -/
theorem test_rspUnknown : (nextOf (exec (.rspUnknown [0xAA, 0, 0, 0, 0xAB]) sCr)).map State.evq =
    some [.response (.unknown [0xAA, 0, 0, 0, 0xAB])] := by decide
/-- T-ST1. -/
theorem test_strmReadout : (nextOf (exec (.strmReadout 0xD4 0x04 0x3A 0x0A) sStream)).map State.evq =
    some [.readout 1236 2618 3 5] := by decide

/-- L2.5, the values on both sides of two bounds. -/
theorem test_grades : (grade10 199, grade10 200, grade10 2000) = (0, 1, 5) ∧
    (grade25 839, grade25 840, grade25 65535) = (3, 4, 5) := by decide

/-- P4, step 9: the status port after a refused command. -/
theorem test_status : State.status { State.resetWith { framingMode := .stream, bufCap := some 16, tsWidth := 32 } with
    illegalCmd := true } = 0x18 := by decide

/-- A cycle with a chunk and a command runs the chunk first and keeps the command (R206). -/
theorem test_step_order : (nextOf (step (presenting { now := 77, rx := some (RxChunk.ofBytes fReadout), cmd := some { tag := 0, arg := 0 } } sCr))).map
      (fun t => (t.evq, t.txq, t.inputs)) =
    some ([eReadout], [], [{ now := 77, cmd := some { tag := 0, arg := 0 } }]) := by decide

/-! ### Witnesses: for each obligation with hypotheses, values that meet all of them -/

theorem witness_DecodeEncodeRoundTrip : WellFormed (.cmdSetCycle 255) ∧ WellFormed (.cmdReserved 6 0xFFFF) ∧
    WellFormed (.rspUnknown [0xAA, 0, 0, 0, 0xAB]) := by decide

theorem witness_CommandFrameHasOneMeaning :
    decodeCmd [0xAA, 0xB4, 0x05, 0, 0, 0, 0, 0, 0, 0, 0, 0, 0, 0xFF, 0xFF, 0xB7, 0xAB] =
      .ok (.cmdSetDeviceId 0xFFFF) := rfl

theorem witness_CommandPortRoundTrip : WellFormed (.cmdSetCycle 255) ∧
    encodeCmdPort (.cmdSetCycle 255) = some { tag := 5, arg := 255 } := by decide

theorem witness_ReservedTagsAndIgnoredBits :
    ((6 : BitVec 3) = 6 ∨ (6 : BitVec 3) = 7) ∧ ((7 : BitVec 3) = 6 ∨ (7 : BitVec 3) = 7) ∧ sCr.link ≠ .failed ∧
      ({ tag := 0xF, a := 0xAB } : EventBeat) ∈ Event.beats (.response (.unknown [0xAB])) := by decide

/-- T-DE1, T-DE18, T-DE14, T-DE15, T-DE16, T-DE19, and an 8-byte DeviceIdChanged: each row at its shortest. -/
theorem witness_ResponseMapSelectsRow :
    decodeCandidate fReadout = .rspReadout 0xD4 0x04 0x3A 0x0A 0xA4 0xD2 ∧
    decodeCandidate [0xAA, 0xC5, 0x07, 0x01, 0x02, 0x03, 0xD2, 0xAB] = .rspVersion 1 2 3 0xD2 0xAB ∧
    decodeCandidate [0xAA, 0xC5, 0x02, 0xC7, 0xAB] = .rspReportingMode 0xAB ∧
    decodeCandidate [0xAA, 0xC5, 0x05, 0x00, 0x00, 0x00, 0xCA, 0xAB] = .rspDeviceIdChanged 0xCA 0xAB ∧
    decodeCandidate [0xAA, 0xC5, 0x06, 0xCB, 0xAB] = .rspPowerMode 0xAB ∧
    decodeCandidate [0xAA, 0xC5, 0x08, 0x01, 0xCE, 0xAB] = .rspCycle 0xCE ∧
    decodeCandidate [0xAA, 0xC5, 0x05, 0xCA, 0xAB] = .rspUnknown [0xAA, 0xC5, 0x05, 0xCA, 0xAB] := by decide

theorem witness_StepRunsPresentedTransaction :
    (presenting { cmd := some { tag := 0, arg := 0 } } sCr).inputs = [{ cmd := some { tag := 0, arg := 0 } }] ∧
      decode (.txn (presenting { cmd := some { tag := 0, arg := 0 } } sCr).cfg.framingMode
        { cmd := some { tag := 0, arg := 0 } }) = .ok .cmdQueryVersion ∧
      (State.takeOutputs (presenting { cmd := some { tag := 0, arg := 0 } } sCr)
        { cmd := some { tag := 0, arg := 0 } }).inReady = true := ⟨rfl, rfl, by decide⟩

theorem witness_StepWaitsForATransaction :
    sCr.inputs = [] ∧ (presenting { now := 5 } sCr).inputs = [{ now := 5 }] ∧ ({ now := 5 } : PortCycle).idle = true := by
  decide

/-- For each strobe a cycle that presents it beside the next one; the checks at the capacity and one byte or more past
it; a 5-byte candidate that fails both tests. -/
theorem witness_StrobeAndCheckOrder :
    (({ rst := true, linkFail := true } : PortCycle).rst = true) ∧
    (({ linkFail := true, linkOpen := true } : PortCycle).rst = false ∧
      ({ linkFail := true, linkOpen := true } : PortCycle).linkFail = true) ∧
    (({ linkOpen := true, rx := some twoBytes } : PortCycle).linkFail = false ∧
      ({ linkOpen := true, rx := some twoBytes } : PortCycle).linkOpen = true) ∧
    (({ rx := some twoBytes, cmd := some { tag := 7, arg := 0 } } : PortCycle).linkOpen = false ∧
      ({ rx := some twoBytes, cmd := some { tag := 7, arg := 0 } } : PortCycle).rx = some twoBytes) ∧
    (({ cmd := some { tag := 7, arg := 0 } } : PortCycle).rx = none ∧
      ({ cmd := some { tag := 7, arg := 0 } } : PortCycle).cmd = some { tag := 7, arg := 0 }) ∧
    sFailed.link = .failed ∧ (sCap.link ≠ .failed ∧ ({ sCap with ovf := true } : State).ovf = true) ∧
    (sCap.ovf = false ∧ fitsCap sCap.cfg (sCap.buf.length + 7) = false) ∧ sCap.accepts 6 ∧
    (sCr.accepts 5 ∧ markersOk [0xAA, 0, 0, 1, 0xAC] = false ∧ csOk [0xAA, 0, 0, 1, 0xAC] = false) := by decide

theorem witness_LinkOpenEffect : State.reset.link = .init ∧ sCr.link ≠ .init ∧ sFailed.link ≠ .init ∧
    isCommand .cmdQueryData = true ∧ Instr.pushChunkCr fReadout = .pushChunkCr (chunkBytes (.pushChunkCr fReadout)) ∧
    (afterStep (exec (.pushChunkCr fReadout) { sCr with link := .init })).map State.evq = some [eReadout] := by decide

theorem witness_LinkFailEffect : State.reset.link ≠ .failed ∧ sCr.link ≠ .failed ∧ sFailed.link = .failed := by decide

theorem witness_FailedIsTerminal : sFailed.link = .failed ∧ isTransaction (.cmdReserved 7 0) = true ∧
    Instr.cmdReserved 7 0 ≠ .reset ∧ (presenting { linkOpen := true } sFailed).inputs = [{ linkOpen := true }] ∧
    ({ linkOpen := true } : PortCycle).rst = false := by decide

/-- 10 bytes and 7 exceed 16; 10 and 6 fill it; T-CR14 for CR mode; and an unbounded buffer. -/
theorem witness_OverflowIsAStickyFault :
    (sCap.link ≠ .failed ∧ sCap.ovf = false ∧ sCap.cfg.bufCap = some 16 ∧ 16 < sCap.buf.length + 7 ∧
      sCap.buf.length + 6 ≤ 16) ∧ ({ sCap with ovf := true } : State).ovf = true ∧ sCr.cfg.bufCap = none := by decide

theorem witness_EmptyChunkIsNoOp :
    (fitsCap sCap.cfg sCap.buf.length = true ∧ bufSettled .stream sCap.buf = true) ∧
    (fitsCap sCr.cfg [0xAA, 0xC0, 0xD4, 0x04].length = true ∧ bufSettled .cr [0xAA, 0xC0, 0xD4, 0x04] = true) := by decide

/-- 4 bytes; 5 bytes with a wrong start, a wrong end, a wrong checksum; and the shortest candidate (T-DE13). -/
theorem witness_CrChunkOutcome : sCr.accepts 4 ∧ sCr.accepts 5 ∧ sCr.buf ++ [0xAA, 0xC0, 0xD4, 0x04] = [0xAA, 0xC0, 0xD4, 0x04] ∧
    byteAt [0xAB, 0, 0, 0, 0xAB] 0 ≠ 0xAA ∧ byteAt [0xAA, 0, 0, 0, 0xAC] 4 ≠ 0xAB ∧ csOk [0xAA, 0, 0, 1, 0xAB] = false ∧
    csOk [0xAA, 0, 0, 0, 0xAB] = true := by decide

theorem witness_ChecksumValidator : 2 ≤ ([0, 0] : List Byte).length ∧ csOk (0xAA :: ([0, 0] ++ [0, 0xAB])) = true ∧
    csOk (0xAA :: ([0, 0] ++ [1, 0xAB])) = false := by decide

theorem witness_CrAtMostOneResponse :
    [(0xAA : Byte), 0xC0, 0xD4, 0x04].length ≤ 4 ∧
    afterStep (exec (.pushChunkCr [0x3A, 0x0A, 0xA4, 0xD2, 0x52, 0xAB]) { sCr with buf := [0xAA, 0xC0, 0xD4, 0x04] }) =
      some { sCr with evq := [eReadout] } := by decide

theorem witness_CrReadoutFrameOnTheWire : sCr.accepts 10 ∧ sCr.buf = [] ∧
    (0xC0 + 0xD4 + 0x04 + 0x3A + 0x0A + 0xA4 + 0xD2) % 256 = 0x52 := by decide

/-- T-CR7 (pieces of 4 and 6 bytes) and T-CR6 (7 and 3). -/
theorem witness_CrFrameSplitAcrossChunks : sCr.buf = [] ∧ sCr.accepts fReadout.length ∧ candidateOk fReadout = true ∧
    ([fReadout.take 4, fReadout.drop 4].flatten = fReadout ∧
      ∀ j < [fReadout.take 4, fReadout.drop 4].length, ([fReadout.take 4, fReadout.drop 4].take j).flatten.length < 5) ∧
    ([fReadout.take 7, fReadout.drop 7].flatten = fReadout ∧ 1 < [fReadout.take 7, fReadout.drop 7].length ∧
      5 ≤ ([fReadout.take 7, fReadout.drop 7].take 1).flatten.length ∧
      (∀ k < 1, ([fReadout.take 7, fReadout.drop 7].take k).flatten.length < 5) ∧
      candidateOk ([fReadout.take 7, fReadout.drop 7].take 1).flatten = false) := by decide

/-- T-CR9: a noise byte before the frame; a malformed chunk of just 5 bytes. -/
theorem witness_CrNoiseAndDrops :
    ((0x11 : Byte) ≠ 0xAA ∧ ([0x11] : List Byte) ++ fReadout = 0x11 :: fReadout ∧ 4 ≤ fReadout.length ∧
      State.accepts { sCr with buf := [0x11] } fReadout.length) ∧
    (sCr.buf = [] ∧ 5 ≤ [(0xAA : Byte), 0, 0, 0, 0xAC].length ∧ candidateOk [0xAA, 0, 0, 0, 0xAC] = false ∧
      sCr.accepts [(0xAA : Byte), 0, 0, 0, 0xAC].length) := by decide

/-- T-ST7; a marker with 7 bytes after it; a marker with 8, between other bytes (T-ST1). -/
theorem witness_StreamChunkOutcome : sStream.accepts 14 ∧ NoMarker (sStream.buf ++ [0x01, 0x02, 0x03, 0xAA]) ∧
    (sStream.buf ++ [0x55, 0xAA, 0xC0, 0, 0, 0, 0, 0, 0, 0] = [0x55] ++ 0xAA :: 0xC0 :: [0, 0, 0, 0, 0, 0, 0] ∧
      BeforeFirstMarker [0x55] ∧ [(0 : Byte), 0, 0, 0, 0, 0, 0].length < 8) ∧
    (sStream.buf ++ [0x11, 0x22, 0xAA, 0xC0, 0xD4, 0x04, 0x3A, 0x0A, 0xA4, 0xD2, 0x52, 0xAB, 0x33, 0x44] =
      [0x11, 0x22] ++ 0xAA :: 0xC0 :: 0xD4 :: 0x04 :: 0x3A :: 0x0A :: 0xA4 :: 0xD2 :: 0x52 :: 0xAB :: [0x33, 0x44] ∧
      BeforeFirstMarker [0x11, 0x22]) :=
  ⟨by decide, (findMarker_eq_none_iff _).mp (by decide),
    ⟨rfl, (findMarker_eq_none_iff _).mp (by decide), by decide⟩, ⟨rfl, (findMarker_eq_none_iff _).mp (by decide)⟩⟩

/-- T-ST11: exactly at capacity. -/
theorem witness_StreamChunkEmitsParsedFrames : sCap.accepts 6 := by decide

/-- T-ST6. -/
theorem witness_StreamBufferSettled : sStream.accepts [(0xAA : Byte), 0xC0, 1, 2, 3].length ∧
    exec (.pushChunkStream [0xAA, 0xC0, 1, 2, 3]) sStream = .next { sStream with buf := [0xAA, 0xC0, 1, 2, 3] } :=
  ⟨by decide, rfl⟩

/-- T-ST4: the payload starts with a marker. -/
theorem witness_StreamPayloadIsNeverRescanned : sStream.buf = [] ∧ [(0xAA : Byte), 0xC0, 1, 2, 3, 4, 5, 6].length = 8 ∧
    NoMarker [7, 8] ∧ sStream.accepts (10 + [(7 : Byte), 8].length) :=
  ⟨rfl, rfl, (findMarker_eq_none_iff _).mp (by decide), by decide⟩

theorem witness_StreamChunksConcatenate : sCap.accepts ([(0 : Byte), 0].length + [(0 : Byte), 0, 0, 0].length) := by decide

/-- T-ST2, with a command and a link notification between the chunks. -/
theorem witness_StreamReadoutsAreTheGreedyParse :
    (∀ i ∈ [Instr.pushChunkStream [0x55, 0xAA], .cmdQueryData, .linkOpen, .pushChunkStream [0xC0, 0, 0, 0, 0, 0, 0, 0, 0]],
      isStreamSession i = true) ∧ sStream.buf = [] ∧ sStream.link ≠ .failed ∧ sStream.ovf = false ∧
    (nextOf (execAll [.pushChunkStream [0x55, 0xAA], .cmdQueryData, .linkOpen,
      .pushChunkStream [0xC0, 0, 0, 0, 0, 0, 0, 0, 0]] sStream)).map State.evq = some [.readout 0 0 0 0] := by decide

theorem witness_GreedyParseIsAFunction : GreedyParse [] [] := .noMarker [] ((findMarker_eq_none_iff _).mp (by decide))

/-- T-ST2 from a trimmed and an untrimmed buffer, with a link failure, a refused command and a RESET after it. -/
theorem witness_StreamTrimKeepsEvents : NoMarker [0x01, 0xAA] ∧ sStream.cfg.bufCap = none ∧
    (∀ i ∈ [Instr.pushChunkStream [0xC0, 0, 0, 0, 0, 0, 0, 0, 0], .cmdReserved 7 0, .linkFail, .reset, .linkOpen],
      isStreamTransaction i = true) ∧
    (afterAll [.pushChunkStream [0xC0, 0, 0, 0, 0, 0, 0, 0, 0], .cmdReserved 7 0, .linkFail, .reset, .linkOpen]
      { sStream with buf := trimBuf [0x01, 0xAA] }).map State.evq =
        some [.readout 0 0 0 0, .error .linkFail, .ready] :=
  ⟨(findMarker_eq_none_iff _).mp (by decide), rfl, by decide, by decide⟩

/-- The frames of `witness_ResponseMapSelectsRow`, run. -/
theorem witness_DecodedCandidateEmits :
    (nextOf (exec (decodeCandidate fReadout) sCr)).map State.evq = some [eReadout] ∧
    (nextOf (exec (decodeCandidate [0xAA, 0xC5, 0x07, 0x01, 0x02, 0x03, 0xD2, 0xAB]) sCr)).map State.evq =
      some [.response (.version 1 2 3 0xD2AB)] ∧
    (nextOf (exec (decodeCandidate [0xAA, 0xC5, 0x02, 0xC7, 0xAB]) sCr)).map State.evq =
      some [.response (.reportingMode false)] ∧
    (nextOf (exec (decodeCandidate [0xAA, 0xC5, 0x05, 0x00, 0x00, 0x00, 0xCA, 0xAB]) sCr)).map State.evq =
      some [.response (.deviceIdChanged 0xCAAB)] ∧
    (nextOf (exec (decodeCandidate [0xAA, 0xC5, 0x06, 0xCB, 0xAB]) sCr)).map State.evq =
      some [.response (.powerMode false)] ∧
    (nextOf (exec (decodeCandidate [0xAA, 0xC5, 0x08, 0x01, 0xCE, 0xAB]) sCr)).map State.evq =
      some [.response (.cycle 206)] ∧
    (nextOf (exec (decodeCandidate [0xAA, 0xC5, 0x05, 0xCA, 0xAB]) sCr)).map State.evq =
      some [.response (.unknown [0xAA, 0xC5, 0x05, 0xCA, 0xAB])] := by decide

theorem witness_DecoderIsTotal : candidateOk [0xAA, 0, 0, 0, 0xAB] = true := by decide

theorem witness_GradesAreMonotone : (199 : Half).toNat ≤ (200 : Half).toNat ∧ (199 : Half).toNat ≤ (199 : Half).toNat := by
  decide

/-- The hypothesis of QueryCommandFrames, ModeCommandFrames, SetDeviceIdFrame and SetCycleFrame: `INIT` and `READY` both
meet it (T-EN21). -/
theorem witness_CommandFrames : State.reset.link ≠ .failed ∧ sCr.link ≠ .failed := by decide

theorem witness_CommandTransmitsOneFrame : isCommand (.cmdSetDeviceId 0xFFFF) = true ∧ State.reset.link ≠ .failed := by decide

theorem witness_ReservedTagIsRefused : sCr.link ≠ .failed ∧ sFailed.link = .failed := by decide

/-- T-EN22 beside T-EN11: other buffers and status bits, one `LINK`. -/
theorem witness_EncoderReadsOnlyLink : isCommand (.cmdSetCycle 5) = true ∧ sFailed.link = { sCap with link := .failed }.link ∧
    sCr.link = ({ sCap with buf := [0xAA, 0xC0, 0xD4], ovf := true } : State).link := by decide

/-- T-EN16, into a buffer of exactly 17 bytes. -/
theorem witness_EchoDecodesAsUnknown : isCommand .cmdQueryVersion = true ∧ sCr.link ≠ .failed ∧
    (ready .cr (some 17)).buf = [] ∧ (ready .cr (some 17)).accepts 17 := by decide

theorem witness_EventRecordLayout : (List.replicate 65535 (0 : Byte)).length ≤ 65535 :=
  List.length_replicate.le

theorem witness_UnnamedEventBitsAreZero :
    ({ tag := 0xF, a := 0xAB } : EventBeat) ∈ Event.beats (.response (.unknown [0xAB])) := by decide

/-- A state with a buffered piece, from which a step completes a readout. -/
theorem witness_StepKeepsInvariant :
    ({ sCr with buf := [0xAA, 0xC0, 0xD4, 0x04], inputs := [{ rx := some (RxChunk.ofBytes [0x3A, 0x0A, 0xA4, 0xD2, 0x52, 0xAB]) }] } : State).Inv ∧
    ((afterStep (step { sCr with
      buf := [0xAA, 0xC0, 0xD4, 0x04],
      inputs := [{ rx := some (RxChunk.ofBytes [0x3A, 0x0A, 0xA4, 0xD2, 0x52, 0xAB]) }] })).map State.evq =
        some [.response (.readout 1236 2618 0xA4D2 0)]) :=
  ⟨⟨by decide, by decide, by decide, .nil, by decide, by decide⟩, by decide⟩

theorem witness_OutputsAreAppendOnly : (afterStep (exec .cmdQueryData sCr)).isSome = true ∧
    (afterStep (step (presenting { linkFail := true } sCr))).isSome = true := by decide

/-- One instruction for each clause: it writes the element the clause is about. -/
theorem witness_WritersOfTheBlockState :
    (afterStep (exec .linkFail sCr)).map State.link = some .failed ∧
    (afterStep (exec (.pushChunkCr [0x11]) sCr)).map State.buf = some [0x11] ∧
    (sCap.ovf = false ∧ (afterStep (exec (.pushChunkStream [0, 0, 0, 0, 0, 0, 0]) sCap)).map State.ovf = some true) ∧
    (afterStep (exec .reset { sCap with ovf := true, illegalCmd := true })).map (fun t => (t.ovf, t.illegalCmd)) =
      some (false, false) ∧
    (sCr.illegalCmd = false ∧ (afterStep (exec (.cmdReserved 7 0) sCr)).map State.illegalCmd = some true) := by decide

theorem witness_ConfigurationIsFixed : (afterStep (exec .reset sCap)).isSome = true ∧
    (afterStep (step (presenting { rst := true } sCap))).isSome = true := by decide

theorem witness_OnlyOverflowAndReservedTagsStop :
    (faultOf (exec (.pushChunkStream [0, 0, 0, 0, 0, 0, 0]) sCap)).isSome = true ∧
    (refusalOf (exec (.cmdReserved 7 0) sCr)).isSome = true := by decide

theorem witness_OnlyCrReadoutReadsNow :
    (afterStep (exec (.rspReadout 1 0 2 0 0 0) sCr)).isSome = true ∧ (afterStep (exec (.rspCycle 5) sCr)).isSome = true ∧
    (∀ a b c d x y, Instr.rspCycle 5 ≠ .rspReadout a b c d x y) ∧ (∀ c, Instr.rspCycle 5 ≠ .pushChunkCr c) ∧
    ((afterStep (exec (.pushChunkCr [0xAA, 0xC5, 0x07, 0x01, 0x02, 0x03, 0xD2, 0xAB]) sCr)).isSome = true ∧
      rspRow (sCr.buf ++ [0xAA, 0xC5, 0x07, 0x01, 0x02, 0x03, 0xD2, 0xAB]) ≠ .readout) ∧
    (rspRow (sCr.buf ++ fReadout) = .readout ∧
      (afterStep (exec (.pushChunkCr fReadout) { sCr with now := 5 })).map State.evq =
        some [.response (.readout 1236 2618 0xA4D2 5)]) :=
  ⟨by decide, by decide, by simp, by simp, by decide, by decide⟩

/-- A cycle whose consumer accepts one event beat at a time holds its command back while two are offered; one whose
consumer accepts everything does not. -/
theorem witness_OutputsHoldTheNextTransaction :
    decode (.txn .cr { cmd := some { tag := 0, arg := 0 }, evtTake := some 1 }) = .ok .cmdQueryVersion ∧
    (State.takeOutputs { sCr with evq := [.ready, .ready] }
      { cmd := some { tag := 0, arg := 0 }, evtTake := some 1 }).inReady = false ∧
    (State.takeOutputs { sCr with evq := [.ready, .ready] } { cmd := some { tag := 0, arg := 0 } }).inReady = true :=
  ⟨rfl, by decide, by decide⟩

end Sys2Proof.Tests.Slice0
end

section
/-! ### O55: the configuration (00_scope.md R5, 70_reset_and_hazards.md R232)

`ExecEffect` says once what executing an instruction can leave behind, whatever its outcome (`exec_effect`); that no
instruction and no step touches `cfg` is read off it. -/

namespace Sys2Proof.Machine

/-! ### What an instruction can leave behind -/

/-- `ExecEffect s i t`: `t` is a state that `i`, executed in `s`, can leave behind by a next state, a fault or a
refusal. Each write stands with the condition under which it happens; `ignored` states none. -/
inductive ExecEffect (s : State) : Instr → State → Prop where
  /-- a transaction that changes nothing (R100, R160, R190 to R192) -/
  | ignored (i : Instr) : ExecEffect s i s
  /-- RESET (R230) -/
  | reset : ExecEffect s .reset s.resetBlock
  /-- LINK_OPEN in `INIT` (R190) -/
  | linkOpen (hl : s.link = .init) : ExecEffect s .linkOpen ((s.setLink .ready).emit .ready)
  /-- LINK_FAIL outside `FAILED` (R191) -/
  | linkFail (hl : s.link ≠ .failed) : ExecEffect s .linkFail ((s.setLink .failed).emit (.error .linkFail))
  /-- a PUSH_CHUNK of either mode that exceeds the capacity (R102) -/
  | overflow (i : Instr) (hi : i = .pushChunkCr (chunkBytes i) ∨ i = .pushChunkStream (chunkBytes i))
      (hl : s.link ≠ .failed) (ho : s.ovf = false)
      (hc : fitsCap s.cfg (s.buf.length + (chunkBytes i).length) = false) : ExecEffect s i s.setOvf
  /-- PUSH_CHUNK.CR, fewer than 5 bytes kept (R103) -/
  | crKept (c : List Byte) (ha : s.accepts c.length) (hb : (s.buf ++ c).length < 5) :
      ExecEffect s (.pushChunkCr c) (s.setBuf (s.buf ++ c))
  /-- PUSH_CHUNK.CR, the candidate dropped (R104, R106) -/
  | crDropped (c : List Byte) (ha : s.accepts c.length) (hb : 5 ≤ (s.buf ++ c).length)
      (hf : candidateOk (s.buf ++ c) = false) : ExecEffect s (.pushChunkCr c) (s.setBuf [])
  /-- PUSH_CHUNK.CR, the candidate decoded (R107) -/
  | crDecoded (c : List Byte) (r : Response) (ha : s.accepts c.length) (hf : candidateOk (s.buf ++ c) = true)
      (hr : runResponse (s.buf ++ c) (s.setBuf []) = .next ((s.setBuf []).emit (.response r))) :
      ExecEffect s (.pushChunkCr c) ((s.setBuf []).emit (.response r))
  /-- PUSH_CHUNK.STREAM, the buffer parsed (R110) -/
  | streamParsed (c : List Byte) (ha : s.accepts c.length) :
      ExecEffect s (.pushChunkStream c)
        { s with
          buf := (streamParse (s.buf ++ c)).2,
          evq := s.evq ++ (streamParse (s.buf ++ c)).1.map payloadEvent }
  /-- one of the six commands outside `FAILED` (R160, R161) -/
  | command (i : Instr) (body : List Byte) (hi : isCommand i = true) (hl : s.link ≠ .failed) :
      ExecEffect s i (s.transmit (cmdFrame body))
  /-- a reserved tag outside `FAILED` (R169) -/
  | reserved (tag : BitVec 3) (arg : Half) (hl : s.link ≠ .failed) :
      ExecEffect s (.cmdReserved tag arg) s.setIllegalCmd
  /-- a response or streaming row (R107, R115) -/
  | row (i : Instr) (e : Event) (hi : isTransaction i = false) : ExecEffect s i (s.emit e)

/-! ### Each family of instructions has its effect -/

section
variable {s t : State}

theorem execLinkOpen_effect (h : afterStep (execLinkOpen s) = some t) : ExecEffect s .linkOpen t := by
  unfold execLinkOpen at h
  split at h
  case isTrue hl => cases h; exact .linkOpen hl
  case isFalse => cases h; exact .ignored _

theorem execLinkFail_effect (h : afterStep (execLinkFail s) = some t) : ExecEffect s .linkFail t := by
  unfold execLinkFail at h
  split at h
  case isTrue hl => cases h; exact .linkFail hl
  case isFalse => cases h; exact .ignored _

/-- Both modes share the front end: an accepted chunk has the effect of the mode's algorithm. -/
theorem pushFront_effect {process : State → StepOutcome} {i : Instr}
    (hi : i = .pushChunkCr (chunkBytes i) ∨ i = .pushChunkStream (chunkBytes i))
    (hp : s.accepts (chunkBytes i).length → afterStep (process (s.setBuf (s.buf ++ chunkBytes i))) = some t →
      ExecEffect s i t)
    (h : afterStep (pushFront process (chunkBytes i) s) = some t) : ExecEffect s i t := by
  obtain ⟨-, e⟩ | ⟨-, -, e⟩ | ⟨hl, ho, hc, e⟩ | ⟨ha, e⟩ := pushFront_cases process (chunkBytes i) s <;> rw [e] at h
  · cases h; exact .ignored i
  · cases h; exact .ignored i
  · cases h; exact .overflow i hi hl ho hc
  · exact hp ha h

theorem crProcess_effect {c : List Byte} (ha : s.accepts c.length)
    (h : afterStep (crProcess (s.setBuf (s.buf ++ c))) = some t) : ExecEffect s (.pushChunkCr c) t := by
  obtain ⟨hb, e⟩ | ⟨hb, hf, e⟩ | ⟨hf, e⟩ := crProcess_cases (s.setBuf (s.buf ++ c))
  · rw [e] at h; cases h; exact .crKept c ha hb
  · rw [e] at h; cases h; exact .crDropped c ha hb hf
  · obtain ⟨r, hr⟩ := runResponse_cases (s.buf ++ c) (s.setBuf [])
    rw [e, State.setBuf_buf, State.setBuf_setBuf, hr] at h
    cases h
    exact .crDecoded c r ha hf hr

theorem streamProcess_effect {c : List Byte} (ha : s.accepts c.length)
    (h : afterStep (streamProcess (s.setBuf (s.buf ++ c))) = some t) : ExecEffect s (.pushChunkStream c) t := by
  rw [streamProcess_eq] at h
  cases h
  exact .streamParsed c ha

theorem encodeFront_effect {i : Instr} {body : List Byte} (hi : isCommand i = true)
    (h : afterStep (encodeFront body s) = some t) : ExecEffect s i t := by
  obtain ⟨-, e⟩ | ⟨hl, e⟩ := encodeFront_cases body s <;> rw [e] at h
  · cases h; exact .ignored i
  · cases h; exact .command i body hi hl

theorem execCmdReserved_effect {tag : BitVec 3} {arg : Half} (h : afterStep (execCmdReserved tag arg s) = some t) :
    ExecEffect s (.cmdReserved tag arg) t := by
  unfold execCmdReserved at h
  split at h
  case isTrue => cases h; exact .ignored _
  case isFalse hl => cases h; exact .reserved tag arg hl

/-- The rows that emit one event and do nothing else. -/
theorem emit_effect {i : Instr} {e : Event} (hi : isTransaction i = false)
    (h : afterStep (.next (s.emit e)) = some t) : ExecEffect s i t := by
  cases h; exact .row i e hi

/-- All that executing an instruction can leave behind. -/
theorem exec_effect {i : Instr} (h : afterStep (exec i s) = some t) : ExecEffect s i t := by
  cases i with
  | reset => cases h; exact .reset
  | linkOpen => exact execLinkOpen_effect h
  | linkFail => exact execLinkFail_effect h
  | pushChunkCr c => exact pushFront_effect (i := .pushChunkCr c) (.inl rfl) crProcess_effect h
  | pushChunkStream c => exact pushFront_effect (i := .pushChunkStream c) (.inr rfl) streamProcess_effect h
  | cmdQueryVersion => exact encodeFront_effect rfl h
  | cmdSetReportingMode active => exact encodeFront_effect rfl h
  | cmdQueryData => exact encodeFront_effect rfl h
  | cmdSetDeviceId id => exact encodeFront_effect rfl h
  | cmdSetPowerMode sleep => exact encodeFront_effect rfl h
  | cmdSetCycle n => exact encodeFront_effect rfl h
  | cmdReserved tag arg => exact execCmdReserved_effect h
  | rspReadout a b c d x y => exact emit_effect rfl h
  | rspVersion a b c x y => exact emit_effect rfl h
  | rspReportingMode m => exact emit_effect rfl h
  | rspDeviceIdChanged x y => exact emit_effect rfl h
  | rspPowerMode m => exact emit_effect rfl h
  | rspCycle m => exact emit_effect rfl h
  | rspUnknown f => exact emit_effect rfl h
  | strmReadout a b c d => exact emit_effect rfl h

/-! ### The configuration -/

/-- No effect writes `cfg`. -/
theorem ExecEffect.cfg_eq {i : Instr} (h : ExecEffect s i t) : t.cfg = s.cfg := by
  cases h <;> rfl

/-- Taking a transaction from the ports writes the port places, `now` and `inputs`, never `cfg`; so a step keeps it as
the transaction it runs does. -/
theorem step_cfg_eq (h : afterStep (step s) = some t) : t.cfg = s.cfg := by
  obtain ⟨-, e⟩ | ⟨p, ps, -, -, e⟩ | ⟨p, ps, -, -, -, e⟩ | ⟨p, ps, i, p', -, -, -, e⟩ := step_cases s <;> rw [e] at h
  · cases h; rfl
  · cases h; rfl
  · cases h; rfl
  · exact (exec_effect h).cfg_eq

end

/-- Settles O55: `exec` by the list of effects, `step` by the four things it can do. -/
theorem configurationIsFixed : Obligations.ConfigurationIsFixed :=
  ⟨fun _ _ _ h => (exec_effect h).cfg_eq, fun _ _ h => step_cfg_eq h⟩

end Sys2Proof.Machine
end

section
/-! ### O52: the invariant (10_state.md R25, 40_assembler.md R108, R122, 41_decoder.md R138 to R147, 20_memory.md R50)

Each write of the state keeps the invariant under its own condition (`State.Inv.setBuf`, `State.Inv.emitAll`,
`State.Inv.transmit`, `State.Inv.takeOutputs`); the writes to other fields keep it by `{ h with }`. The conditions are
met by what PUSH_CHUNK leaves, by the events the rows emit, and by the six command frames. A step then keeps the
invariant by the list of effects of its transaction. -/

namespace Sys2Proof.Machine

/-! ### The invariant under each write of the state -/

section
variable {s : State}

theorem State.Inv.setBuf (h : s.Inv) {b : List Byte} (hc : fitsCap s.cfg b.length = true)
    (hb : bufSettled s.cfg.framingMode b = true) : (s.setBuf b).Inv :=
  { h with capacity := hc, settled := hb }

/-- An empty buffer meets every capacity and is settled in both modes. -/
theorem State.Inv.setBuf_nil (h : s.Inv) : (s.setBuf []).Inv := by
  refine h.setBuf (fitsCap_mono _ _ _ (Nat.zero_le _) h.capacity) ?_
  cases s.cfg.framingMode <;> rfl

theorem State.Inv.emitAll (h : s.Inv) {es : List Event} (he : ∀ e ∈ es, eventOk s.cfg e = true) :
    State.Inv { s with evq := s.evq ++ es } where
  capacity := h.capacity
  settled := h.settled
  events e hm := (List.mem_append.mp hm).elim (h.events e) (he e)
  frames := h.frames
  evtPort := by
    have hle := h.evtPort
    simp only [State.eventBeats, List.flatMap_append, List.length_append] at hle ⊢
    omega
  txPort := h.txPort

theorem State.Inv.emit (h : s.Inv) {e : Event} (he : eventOk s.cfg e = true) : (s.emit e).Inv :=
  h.emitAll (es := [e]) (by simpa using he)

theorem State.Inv.transmit (h : s.Inv) {t : List Byte} {i : Instr} (ht : decodeCmd t = .ok i) : (s.transmit t).Inv :=
  { h with
    frames := .snoc _ t i h.frames ht
    txPort := by have := h.txPort; simp; omega }

theorem State.Inv.takeOutputs (h : s.Inv) (p : PortCycle) : (s.takeOutputs p).Inv :=
  { h with evtPort := portPlace_le _ _ _, txPort := portPlace_le _ _ _ }

theorem State.Inv.resetBlock (h : s.Inv) : s.resetBlock.Inv :=
  { h.setBuf_nil with evtPort := Nat.le_refl _, txPort := Nat.le_refl _ }

/-! ### What is written meets the conditions -/

/-- A decoded candidate emits an event of command/response mode: its timestamp is reduced to `TS_WIDTH` bits,
and it is an Unknown only if no other row matched (R138, R147). -/
theorem eventOk_of_runResponse {f : List Byte} {r : Response} (hm : s.cfg.framingMode = .cr)
    (hf : candidateOk f = true) (h : runResponse f s = .next (s.emit (.response r))) :
    eventOk s.cfg (.response r) = true := by
  have runs {r' : Response} (h' : respond r' s = .next (s.emit (.response r))) : r' = r := by
    simpa [respond, State.emit] using h'
  unfold runResponse at h
  cases hr : rspRow f <;> rw [hr] at h
  case readout => rw [← runs h]; simp [eventOk, hm, State.timestamp, Nat.mod_lt]
  case unknown => rw [← runs h]; simp [eventOk, hm, hf, hr]
  all_goals rw [← runs h]; simp [eventOk, hm]

/-- The readout of a payload carries the grades of its values (R142). -/
theorem eventOk_payloadEvent {cfg : Config} (hm : cfg.framingMode = .stream) (p : List Byte) :
    eventOk cfg (payloadEvent p) = true := by
  simp [eventOk, payloadEvent, streamReadout, hm]

/-- The frame of SetCycle is read back as SetCycle, whatever its value byte: its subtype fits no other row. -/
theorem decodeCmd_cmdFrame_setCycle (n : Nat) :
    decodeCmd (cmdFrame (bodySetCycle n)) = .ok (.cmdSetCycle (BitVec.ofNat 8 n).toNat) := by
  simp [decodeCmd, cmdFrame, bodySetCycle, cmdBody, slice, fitsPattern, patQueryVersion, patSetReportingMode,
    patQueryData, patSetDeviceId, patSetPowerMode, patSetCycle]

/-- The frame of SetDeviceId is read back as SetDeviceId of the same identifier. -/
theorem decodeCmd_cmdFrame_setDeviceId (id : Half) :
    decodeCmd (cmdFrame (bodySetDeviceId id)) = .ok (.cmdSetDeviceId id) := by
  simp [decodeCmd, cmdFrame, bodySetDeviceId, cmdBody, slice, fitsPattern, patQueryVersion, patSetReportingMode,
    patQueryData, patSetDeviceId]

/-- Each of the six commands runs the encoder's front end on a body whose frame is a command frame (R64, R68). -/
theorem isCommand_encodes {i : Instr} (hi : isCommand i = true) :
    ∃ body, (∀ s, exec i s = encodeFront body s) ∧ ∃ j, decodeCmd (cmdFrame body) = .ok j := by
  cases i with
  | cmdQueryVersion => exact ⟨_, fun _ => rfl, _, rfl⟩
  | cmdSetReportingMode active => exact ⟨_, fun _ => rfl, by cases active <;> exact ⟨_, rfl⟩⟩
  | cmdQueryData => exact ⟨_, fun _ => rfl, _, rfl⟩
  | cmdSetDeviceId id => exact ⟨_, fun _ => rfl, _, decodeCmd_cmdFrame_setDeviceId id⟩
  | cmdSetPowerMode sleep => exact ⟨_, fun _ => rfl, by cases sleep <;> exact ⟨_, rfl⟩⟩
  | cmdSetCycle n => exact ⟨_, fun _ => rfl, _, decodeCmd_cmdFrame_setCycle n⟩
  | _ => cases hi

/-! ### Every step keeps the invariant -/

/-- A command appends the frame that reads back as a command, or is ignored. -/
theorem State.Inv.of_command {i : Instr} {t : State} (h : s.Inv) (hi : isCommand i = true)
    (ht : afterStep (exec i s) = some t) : t.Inv := by
  obtain ⟨body, he, j, hj⟩ := isCommand_encodes hi
  obtain ⟨-, e⟩ | ⟨-, e⟩ := encodeFront_cases body s <;> rw [he, e] at ht <;> cases ht
  · exact h
  · exact h.transmit hj

/-- A transaction in the row of the configured framing mode keeps the invariant, whatever its outcome. -/
theorem State.Inv.of_exec {i : Instr} {t : State} (h : s.Inv) (hi : isTransaction i = true)
    (hcr : ∀ c, i = .pushChunkCr c → s.cfg.framingMode = .cr)
    (hst : ∀ c, i = .pushChunkStream c → s.cfg.framingMode = .stream)
    (ht : afterStep (exec i s) = some t) : t.Inv := by
  cases exec_effect ht with
  | ignored => exact h
  | reset => exact h.resetBlock
  | linkOpen => exact State.Inv.emit (s := s.setLink .ready) { h with } rfl
  | linkFail => exact State.Inv.emit (s := s.setLink .failed) { h with } rfl
  | overflow => exact { h with }
  | crKept c ha hb =>
    refine h.setBuf (by simpa using ha.2.2) ?_
    rw [hcr c rfl]
    exact decide_eq_true (by omega)
  | crDropped => exact h.setBuf_nil
  | crDecoded c r _ hf hr => exact h.setBuf_nil.emit (eventOk_of_runResponse (hcr c rfl) hf hr)
  | streamParsed c ha =>
    have hm := hst c rfl
    have hc : fitsCap s.cfg (s.buf ++ c).length = true := by simpa using ha.2.2
    have hb := h.setBuf (fitsCap_mono _ _ _ (streamParse_length_le _) hc) (hm ▸ streamParse_settled _)
    exact hb.emitAll (by simp [eventOk_payloadEvent hm])
  | command i body hc => exact h.of_command hc ht
  | reserved => exact { h with }
  | row i e hrow => exact absurd hi (by simp [hrow])

theorem State.Inv.of_step {t : State} (h : s.Inv) (ht : afterStep (step s) = some t) : t.Inv := by
  obtain ⟨-, e⟩ | ⟨p, ps, -, -, e⟩ | ⟨p, ps, -, -, -, e⟩ | ⟨p, ps, i, p', -, hn, -, e⟩ := step_cases s <;> rw [e] at ht
  · cases ht; exact h
  · cases ht; exact { h.takeOutputs p with }
  · cases ht; exact h.takeOutputs p
  · obtain ⟨hi, hcr, hst⟩ := nextTxn_transaction _ _ _ _ hn
    have hf : State.Inv { s.takeOutputs p with now := p.now, inputs := p'.rest ++ ps } := { h.takeOutputs p with }
    exact hf.of_exec hi hcr hst ht

end

/-- Settles O52, by `State.Inv.of_step`. -/
theorem stepKeepsInvariant : Obligations.StepKeepsInvariant := fun _ _ h ht => h.of_step ht

end Sys2Proof.Machine
end

section
/-! ### O53: the outputs are append-only (10_state.md R29, R30, 20_memory.md R49) -/

namespace Sys2Proof.Machine

section
variable {s t : State}

/-- Every effect leaves `EVQ` and `TXQ` as they are or appends to one of them. -/
theorem ExecEffect.outputs_prefix {i : Instr} (h : ExecEffect s i t) : s.evq <+: t.evq ∧ s.txq <+: t.txq := by
  cases h with
  | linkOpen | linkFail | crDecoded | streamParsed | row => exact ⟨List.prefix_append _ _, List.prefix_rfl⟩
  | command => exact ⟨List.prefix_rfl, List.prefix_append _ _⟩
  | _ => exact ⟨List.prefix_rfl, List.prefix_rfl⟩

/-- What a step does before it runs its transaction touches neither queue. -/
theorem step_outputs_prefix (h : afterStep (step s) = some t) : s.evq <+: t.evq ∧ s.txq <+: t.txq := by
  obtain ⟨-, e⟩ | ⟨p, ps, -, -, e⟩ | ⟨p, ps, -, -, -, e⟩ | ⟨p, ps, i, p', -, -, -, e⟩ := step_cases s <;> rw [e] at h
  · cases h; exact ⟨List.prefix_rfl, List.prefix_rfl⟩
  · cases h; exact ⟨List.prefix_rfl, List.prefix_rfl⟩
  · cases h; exact ⟨List.prefix_rfl, List.prefix_rfl⟩
  · exact (exec_effect h).outputs_prefix

end

/-- Settles O53: `exec` by the list of effects, `step` by the four things it can do. -/
theorem outputsAreAppendOnly : Obligations.OutputsAreAppendOnly :=
  ⟨fun _ _ _ h => (exec_effect h).outputs_prefix, fun _ _ h => step_outputs_prefix h⟩

end Sys2Proof.Machine
end

section
/-! ### O54: the writers of the block's state (10_state.md R24 to R27)

One lemma for each element: of the effects, all but the writers the rule names leave it as it is. -/

namespace Sys2Proof.Machine

section
variable {s t : State} {i : Instr}

theorem ExecEffect.link_writer (h : ExecEffect s i t) (hne : t.link ≠ s.link) :
    i = .reset ∨ i = .linkOpen ∨ i = .linkFail := by
  cases h with
  | reset => exact .inl rfl
  | linkOpen => exact .inr (.inl rfl)
  | linkFail => exact .inr (.inr rfl)
  | _ => exact absurd rfl hne

theorem ExecEffect.buf_writer (h : ExecEffect s i t) (hne : t.buf ≠ s.buf) :
    i = .reset ∨ i = .pushChunkCr (chunkBytes i) ∨ i = .pushChunkStream (chunkBytes i) := by
  cases h with
  | reset => exact .inl rfl
  | crKept | crDropped | crDecoded => exact .inr (.inl rfl)
  | streamParsed => exact .inr (.inr rfl)
  | _ => exact absurd rfl hne

/-- `OVF` changes only when a PUSH_CHUNK sets it or RESET clears it. -/
theorem ExecEffect.ovf_writer (h : ExecEffect s i t) (hne : t.ovf ≠ s.ovf) :
    t.ovf = true ∧ (i = .pushChunkCr (chunkBytes i) ∨ i = .pushChunkStream (chunkBytes i)) ∨
      t.ovf = false ∧ i = .reset := by
  cases h with
  | reset => exact .inr ⟨rfl, rfl⟩
  | overflow _ hi => exact .inl ⟨rfl, hi⟩
  | _ => exact absurd rfl hne

/-- `ILLEGAL_CMD` changes only when a reserved tag sets it or RESET clears it. -/
theorem ExecEffect.illegalCmd_writer (h : ExecEffect s i t) (hne : t.illegalCmd ≠ s.illegalCmd) :
    t.illegalCmd = true ∧ (∃ tag arg, i = .cmdReserved tag arg) ∨ t.illegalCmd = false ∧ i = .reset := by
  cases h with
  | reset => exact .inr ⟨rfl, rfl⟩
  | reserved tag arg => exact .inl ⟨rfl, tag, arg, rfl⟩
  | _ => exact absurd rfl hne

end

/-- Settles O54, from the writers of each element. -/
theorem writersOfTheBlockState : Obligations.WritersOfTheBlockState := by
  intro i s t h
  have he := exec_effect h
  refine ⟨he.link_writer, he.buf_writer, fun h0 h1 => ?_, fun h1 h0 => ?_, fun h0 h1 => ?_, fun h1 h0 => ?_⟩
  · simpa [h1] using he.ovf_writer (by simp [h0, h1])
  · simpa [h0] using he.ovf_writer (by simp [h0, h1])
  · simpa [h1] using he.illegalCmd_writer (by simp [h0, h1])
  · simpa [h0] using he.illegalCmd_writer (by simp [h0, h1])

end Sys2Proof.Machine
end

section
/-! ### O57: who reads `now` (10_state.md R34)

Two runs are compared that start in states differing in `now` alone. `NowBlind` says that they end alike,
`OneReadoutApart` that each ends by emitting one Readout, the two differing in their timestamp. -/

namespace Sys2Proof.Machine

/-! ### The same state at another time -/

/-- The state with another value on the `now` input. -/
def State.withNow (s : State) (n : Nat) : State := { s with now := n }

/-- From `s`, `run` does the very same when `now` is `n`. -/
def NowBlind (run : State → StepOutcome) (s : State) (n : Nat) : Prop :=
  afterStep (run (s.withNow n)) = (afterStep (run s)).map (·.withNow n)

/-- From `s` and from `s` at time `n`, `run` emits a Readout of the same values, each with its own timestamp; whatever
else it has written by then (`u`), it is no event. -/
def OneReadoutApart (run : State → StepOutcome) (s : State) (n : Nat) : Prop :=
  ∃ (u : State) (pm10 pm25 deviceId : Half), u.evq = s.evq ∧
    run s = .next (u.emit (.response (.readout pm10 pm25 deviceId s.timestamp))) ∧
    run (s.withNow n) =
      .next ((u.withNow n).emit (.response (.readout pm10 pm25 deviceId (s.withNow n).timestamp)))

section
variable {s : State} {n : Nat} {run run' : State → StepOutcome}

theorem NowBlind.of_eq {u : State} (h : NowBlind run' u n) (e : run s = run' u)
    (en : run (s.withNow n) = run' (u.withNow n)) : NowBlind run s n := by
  rw [NowBlind, e, en]
  exact h

/-- Writing the buffer first leaves events and timestamp as they are. -/
theorem OneReadoutApart.of_setBuf {b : List Byte} (h : OneReadoutApart run' (s.setBuf b) n)
    (e : run s = run' (s.setBuf b)) (en : run (s.withNow n) = run' ((s.setBuf b).withNow n)) :
    OneReadoutApart run s n := by
  obtain ⟨u, pm10, pm25, deviceId, hu, h0, hn⟩ := h
  exact ⟨u, pm10, pm25, deviceId, hu, e.trans h0, en.trans hn⟩

end

section
variable (s : State) (n : Nat)

/-! ### The operations -/

/-- ENCODE's front end tests `LINK` only. -/
theorem encodeFront_nowBlind (body : List Byte) : NowBlind (encodeFront body) s n := by
  unfold NowBlind encodeFront
  by_cases hl : s.link = .failed <;> simp [State.withNow, hl, afterStep, State.transmit]

/-- PUSH_CHUNK's front end tests `LINK`, `OVF` and the capacity, none of which `now` changes: it ignores the chunk or
faults alike at both times, or runs the mode's algorithm at both. -/
theorem pushFront_withNow (process : State → StepOutcome) (c : List Byte) :
    NowBlind (pushFront process c) s n ∨
      pushFront process c s = process (s.setBuf (s.buf ++ c)) ∧
        pushFront process c (s.withNow n) = process ((s.setBuf (s.buf ++ c)).withNow n) := by
  obtain ⟨hl, -⟩ | ⟨hl, ho, -⟩ | ⟨hl, ho, hc, -⟩ | ⟨ha, e⟩ := pushFront_cases process c s
  · left; simp [NowBlind, pushFront, State.withNow, hl, afterStep]
  · left; simp [NowBlind, pushFront, State.withNow, hl, ho, afterStep]
  · left; simp [NowBlind, pushFront, State.withNow, hl, ho, hc, afterStep, raiseOvf, State.setOvf]
  · exact .inr ⟨e, pushFront_accepts process c (s.withNow n) ha⟩

/-- Of the response rows only Readout samples `now`. -/
theorem runResponse_withNow (f : List Byte) :
    NowBlind (runResponse f) s n ∨ rspRow f = .readout ∧ OneReadoutApart (runResponse f) s n := by
  unfold NowBlind OneReadoutApart runResponse
  cases rspRow f
  case readout => exact .inr ⟨rfl, s, _, _, _, rfl, rfl, rfl⟩
  all_goals exact .inl rfl

theorem five_le_of_candidateOk {f : List Byte} (h : candidateOk f = true) : 5 ≤ f.length := by
  rw [candidateOk, Bool.and_assoc, Bool.and_eq_true] at h
  exact of_decide_eq_true h.1

/-- `CR_PROCESS` in one equation (R101). -/
theorem crProcess_eq : crProcess s =
    if s.buf.length < 5 then .next s
    else if candidateOk s.buf = true then runResponse s.buf (s.setBuf [])
    else .next (s.setBuf []) := by
  obtain ⟨hb, e⟩ | ⟨hb, hf, e⟩ | ⟨hf, e⟩ := crProcess_cases s
  · rw [e, if_pos hb]
  · rw [e, if_neg (by omega), if_neg (by simp [hf])]
  · rw [e, if_neg (by have := five_le_of_candidateOk hf; omega), if_pos hf]

theorem crProcess_withNow :
    NowBlind crProcess s n ∨ rspRow s.buf = .readout ∧ OneReadoutApart crProcess s n := by
  by_cases hb : s.buf.length < 5
  · left; simp [NowBlind, crProcess_eq, State.withNow, hb, afterStep]
  by_cases hf : candidateOk s.buf = true
  · have e : crProcess s = runResponse s.buf (s.setBuf []) := by simp [crProcess_eq, hb, hf]
    have en : crProcess (s.withNow n) = runResponse s.buf ((s.setBuf []).withNow n) := by
      simp [crProcess_eq, State.withNow, State.setBuf, hb, hf]
    exact (runResponse_withNow (s.setBuf []) n s.buf).imp (·.of_eq e en) (.imp_right (·.of_setBuf e en))
  · left; simp [NowBlind, crProcess_eq, State.withNow, State.setBuf, hb, hf, afterStep]

theorem execPushChunkCr_withNow (c : List Byte) :
    NowBlind (execPushChunkCr c) s n ∨ rspRow (s.buf ++ c) = .readout ∧ OneReadoutApart (execPushChunkCr c) s n := by
  obtain hb | ⟨e, en⟩ := pushFront_withNow s n crProcess c
  · exact .inl hb
  · exact (crProcess_withNow (s.setBuf (s.buf ++ c)) n).imp (·.of_eq e en) (.imp_right (·.of_setBuf e en))

/-- The streaming readouts carry no timestamp. -/
theorem execPushChunkStream_nowBlind (c : List Byte) : NowBlind (execPushChunkStream c) s n := by
  obtain hb | ⟨e, en⟩ := pushFront_withNow s n streamProcess c
  · exact hb
  · refine NowBlind.of_eq (run' := streamProcess) ?_ e en
    simp [NowBlind, streamProcess_eq, afterStep, State.withNow]

theorem execLinkOpen_nowBlind : NowBlind execLinkOpen s n := by
  unfold NowBlind execLinkOpen
  by_cases hl : s.link = .init <;> simp [State.withNow, hl, afterStep, State.setLink, State.emit]

theorem execLinkFail_nowBlind : NowBlind execLinkFail s n := by
  unfold NowBlind execLinkFail
  by_cases hl : s.link = .failed <;> simp [State.withNow, hl, afterStep, State.setLink, State.emit]

theorem execCmdReserved_nowBlind (tag : BitVec 3) (arg : Half) : NowBlind (execCmdReserved tag arg) s n := by
  unfold NowBlind execCmdReserved
  by_cases hl : s.link = .failed <;>
    simp [State.withNow, hl, afterStep, refuseIllegalCmd, State.setIllegalCmd]

/-! ### The instructions -/

/-- Every instruction ends alike at both times, or it is RSP.Readout or a PUSH_CHUNK.CR that completes a candidate of
that row, and the two runs are one Readout apart. -/
theorem exec_withNow (i : Instr) :
    NowBlind (exec i) s n ∨
      ((∃ a b c d x y, i = .rspReadout a b c d x y) ∨ ∃ c, i = .pushChunkCr c ∧ rspRow (s.buf ++ c) = .readout) ∧
        OneReadoutApart (exec i) s n := by
  cases i with
  | pushChunkCr c => exact (execPushChunkCr_withNow s n c).imp_right (.imp_left fun hr => .inr ⟨c, rfl, hr⟩)
  | rspReadout a b c d x y => exact .inr ⟨.inl ⟨a, b, c, d, x, y, rfl⟩, s, _, _, _, rfl, rfl, rfl⟩
  | linkOpen => exact .inl (execLinkOpen_nowBlind s n)
  | linkFail => exact .inl (execLinkFail_nowBlind s n)
  | pushChunkStream c => exact .inl (execPushChunkStream_nowBlind s n c)
  | cmdReserved tag arg => exact .inl (execCmdReserved_nowBlind s n tag arg)
  | cmdQueryVersion | cmdSetReportingMode | cmdQueryData | cmdSetDeviceId | cmdSetPowerMode | cmdSetCycle =>
    exact .inl (encodeFront_nowBlind s n _)
  | reset | rspVersion | rspReportingMode | rspDeviceIdChanged | rspPowerMode | rspCycle | rspUnknown | strmReadout =>
    exact .inl rfl

end

section
variable {s t : State} {n : Nat} {run : State → StepOutcome}

/-- The state a blind run leaves at another time. -/
theorem NowBlind.afterStep_withNow (hb : NowBlind run s n) (h : afterStep (run s) = some t) :
    afterStep (run (s.withNow n)) = some (t.withNow n) := by
  rw [hb, h]; rfl

/-- The two states of runs that are one Readout apart. -/
theorem OneReadoutApart.afterStep_withNow (ho : OneReadoutApart run s n) (h : afterStep (run s) = some t) :
    ∃ pm10 pm25 deviceId : Half,
      t.evq = s.evq ++ [.response (.readout pm10 pm25 deviceId s.timestamp)] ∧
      afterStep (run (s.withNow n)) = some { t with
        now := n, evq := s.evq ++ [.response (.readout pm10 pm25 deviceId (s.withNow n).timestamp)] } := by
  obtain ⟨u, pm10, pm25, deviceId, hu, e, en⟩ := ho
  rw [e] at h
  cases h
  refine ⟨pm10, pm25, deviceId, by simp [hu], ?_⟩
  rw [en, ← hu]
  rfl

end

/-- Settles O57, by the two ways the runs can compare (`exec_withNow`); the first clause's hypotheses exclude the
second way. -/
theorem onlyCrReadoutReadsNow : Obligations.OnlyCrReadoutReadsNow := by
  intro i s t n h
  obtain hb | ⟨hreads, ho⟩ := exec_withNow s n i
  · exact ⟨fun _ _ => hb.afterStep_withNow h, .inl (hb.afterStep_withNow h)⟩
  · refine ⟨fun hrsp hcr => ?_, .inr (ho.afterStep_withNow h)⟩
    obtain ⟨a, b, c, d, x, y, hi⟩ | ⟨c, hi, hr⟩ := hreads
    · exact absurd hi (hrsp a b c d x y)
    · exact absurd hr (hcr c hi)

end Sys2Proof.Machine
end

section
/-! ### O48: the status port (10_state.md R28) -/

namespace Sys2Proof.Machine

/-- The fields of R28 by bit position. -/
theorem statusFields_layout (mode : FramingMode) (illegalCmd ovf : Bool) (link : Link) :
    (statusFields mode illegalCmd ovf link).extractLsb' 0 2 = link.code ∧
    (statusFields mode illegalCmd ovf link).getLsbD 2 = ovf ∧
    (statusFields mode illegalCmd ovf link).getLsbD 3 = illegalCmd ∧
    (statusFields mode illegalCmd ovf link).getLsbD 4 = decide (mode = .stream) ∧
    (statusFields mode illegalCmd ovf link).extractLsb' 5 3 = 0b000 := by
  cases mode <;> cases illegalCmd <;> cases ovf <;> cases link <;> decide

/-- `LINK` has no code 11 (R24). -/
theorem Link.code_ne_three (l : Link) : l.code ≠ 0b11 := by
  cases l <;> decide

theorem statusFields_reset (mode : FramingMode) :
    statusFields mode false false .init = if mode = .stream then 0x10 else 0x00 := by
  cases mode <;> decide

/-- After reset no field but MODE is set (R231). -/
theorem State.resetWith_status (cfg : Config) :
    (State.resetWith cfg).status = if cfg.framingMode = .stream then 0x10 else 0x00 :=
  statusFields_reset cfg.framingMode

/-- Settles O48, from the layout of the port and the codes of `LINK`. -/
theorem statusPortLayout : Obligations.StatusPortLayout := by
  intro s
  obtain ⟨hlink, hovf, hill, hmode, hres⟩ := statusFields_layout s.cfg.framingMode s.illegalCmd s.ovf s.link
  refine ⟨hlink.trans ?_, hovf, hill, hmode, hres, ?_, State.resetWith_status s.cfg⟩
  · cases s.link <;> rfl
  · exact fun h => s.link.code_ne_three (hlink.symm.trans h)

end Sys2Proof.Machine
end

section
/-! ### O8: waiting for a transaction (20_memory.md R47) -/

namespace Sys2Proof.Machine

/-- A cycle has no next transaction exactly when all five of its strobes are absent (R206). -/
theorem nextTxn_eq_none_iff_idle (mode : FramingMode) (p : PortCycle) :
    nextTxn mode p = none ↔ p.idle = true := by
  unfold nextTxn
  split
  case isTrue hrst => simp [PortCycle.idle, hrst]
  split
  case isTrue hfail => simp [PortCycle.idle, hfail]
  split
  case isTrue hopen => simp [PortCycle.idle, hopen]
  case isFalse hrst hfail hopen =>
    cases hrx : p.rx <;> cases hcmd : p.cmd <;> simp [PortCycle.idle, hrst, hfail, hopen, hrx, hcmd]

section
variable {s : State} {p : PortCycle} {ps : List PortCycle}

theorem step_of_inputs_nil (h : s.inputs = []) : step s = .next s := by
  simp [step, fetch, h]

/-- No transaction is held back in a cycle that has none, so the cycle passes even while outputs are still offered. -/
theorem step_of_nextTxn_none (h : s.inputs = p :: ps) (hn : nextTxn s.cfg.framingMode p = none) :
    step s = .next { s.takeOutputs p with inputs := ps } := by
  simp [step, fetch, h, hn]

end

/-- Settles O8, since an idle cycle is one without a next transaction (`nextTxn_eq_none_iff_idle`). -/
theorem stepWaitsForATransaction : Obligations.StepWaitsForATransaction :=
  ⟨fun _ h => step_of_inputs_nil h,
    fun s p _ h hidle => step_of_nextTxn_none h ((nextTxn_eq_none_iff_idle s.cfg.framingMode p).mpr hidle)⟩

end Sys2Proof.Machine
end

section
/-! ### O6: the response map (30_encoding.md R67, 41_decoder.md R131, R139)

One lemma a row: the conditions that select it and the bytes it reads. -/

namespace Sys2Proof.Machine

theorem byteAt_eq_getElem {f : List Byte} {i : Nat} (h : i < f.length) : byteAt f i = f[i] := by
  simp [byteAt, h]

section
variable {f : List Byte}

theorem decodeCandidate_readout (h1 : byteAt f 1 = 0xC0) (hl : f.length = 10) :
    decodeCandidate f =
      .rspReadout (byteAt f 2) (byteAt f 3) (byteAt f 4) (byteAt f 5) (byteAt f 6) (byteAt f 7) := by
  simp [decodeCandidate, rspRow, rspInstr, h1, hl]

theorem decodeCandidate_version (h1 : byteAt f 1 = 0xC5) (h2 : byteAt f 2 = 0x07) (hl : 8 ≤ f.length) :
    decodeCandidate f = .rspVersion (byteAt f 3) (byteAt f 4) (byteAt f 5) (byteAt f 6) (byteAt f 7) := by
  simp [decodeCandidate, rspRow, rspInstr, h1, h2, hl]

theorem decodeCandidate_reportingMode (h1 : byteAt f 1 = 0xC5) (h2 : byteAt f 2 = 0x02) :
    decodeCandidate f = .rspReportingMode (byteAt f 4) := by
  simp [decodeCandidate, rspRow, rspInstr, h1, h2]

theorem decodeCandidate_deviceIdChanged (h1 : byteAt f 1 = 0xC5) (h2 : byteAt f 2 = 0x05) (hl : 8 ≤ f.length) :
    decodeCandidate f = .rspDeviceIdChanged (byteAt f 6) (byteAt f 7) := by
  simp [decodeCandidate, rspRow, rspInstr, h1, h2, hl]

theorem decodeCandidate_powerMode (h1 : byteAt f 1 = 0xC5) (h2 : byteAt f 2 = 0x06) :
    decodeCandidate f = .rspPowerMode (byteAt f 4) := by
  simp [decodeCandidate, rspRow, rspInstr, h1, h2]

theorem decodeCandidate_cycle (h1 : byteAt f 1 = 0xC5) (h2 : byteAt f 2 = 0x08) :
    decodeCandidate f = .rspCycle (byteAt f 4) := by
  simp [decodeCandidate, rspRow, rspInstr, h1, h2]

theorem decodeCandidate_unknown (h : rspRow f = .unknown) : decodeCandidate f = .rspUnknown f := by
  rw [decodeCandidate, h, rspInstr]

end

/-- Settles O6, row by row; in a candidate of 5 bytes or more every byte a row reads is within bounds. -/
theorem responseMapSelectsRow : Obligations.ResponseMapSelectsRow := by
  intro f hL
  simp only [← byteAt_eq_getElem]
  refine ⟨decodeCandidate_readout, decodeCandidate_version, decodeCandidate_reportingMode,
    decodeCandidate_deviceIdChanged, decodeCandidate_powerMode, decodeCandidate_cycle, ?_⟩
  intro h1 h2 h3 h4 h5 h6
  exact decodeCandidate_unknown (by rw [rspRow, if_neg h1, if_neg h2, if_neg h3, if_neg h4, if_neg h5, if_neg h6])

end Sys2Proof.Machine
end

section
/-! ### O1: decoding an encoding (30_encoding.md R61 to R74)

One lemma a format: a chunk on the `rx` port, the command port's reserved tags, and a response frame around a body.
The command frames with a free operand are read back by `decodeCmd_cmdFrame_setDeviceId` and
`decodeCmd_cmdFrame_setCycle`; the other commands have one frame or two. -/

namespace Sys2Proof.Machine

theorem bytes_ofBytes (c : List Byte) : (RxChunk.ofBytes c).bytes = c := by
  simp [RxChunk.bytes, RxChunk.ofBytes, List.filter_map, Function.comp_def]

/-- The tags that name no command (R68, R70). -/
theorem six_le_tag_iff (tag : BitVec 3) : 6 ≤ tag.toNat ↔ tag = 6 ∨ tag = 7 := by
  revert tag; decide

theorem decodeCmdPort_reserved {tag : BitVec 3} (h : tag = 6 ∨ tag = 7) (arg : Half) :
    decodeCmdPort tag arg = .cmdReserved tag arg := by
  obtain rfl | rfl := h <;> rfl

/-- The four tests of an RSP frame are those of the synchronizer (R103 to R105). -/
theorem decodeRsp_of_candidateOk {f : List Byte} (h : candidateOk f = true) :
    decodeRsp f = .ok (decodeCandidate f) := by
  simp only [candidateOk, markersOk, Bool.and_eq_true, decide_eq_true_eq, beq_iff_eq] at h
  obtain ⟨⟨hl, hs, he⟩, hc⟩ := h
  simp [decodeRsp, Nat.not_lt.mpr hl, hs, he, hc]

/-- A response frame of the nominal length 10 is decoded as its candidate is (R61). -/
theorem decode_rspFrame {b : List Byte} {i : Instr} (hb : b.length = 7) (hi : decodeCandidate (rspFrame b) = i) :
    decode (.rsp (rspFrame b)) = .ok i :=
  hi ▸ decodeRsp_of_candidateOk (candidateOk_rspFrame b (by omega))

/-- Settles O1, each row by the lemma of its format. -/
theorem decodeEncodeRoundTrip : Obligations.DecodeEncodeRoundTrip := by
  intro i hwf
  cases i with
  | reset | linkOpen | linkFail => rfl
  | pushChunkCr c => exact congrArg (Except.ok ∘ Instr.pushChunkCr) (bytes_ofBytes c)
  | pushChunkStream c => exact congrArg (Except.ok ∘ Instr.pushChunkStream) (bytes_ofBytes c)
  | cmdQueryVersion | cmdQueryData => rfl
  | cmdSetReportingMode active => cases active <;> rfl
  | cmdSetDeviceId id => exact decodeCmd_cmdFrame_setDeviceId id
  | cmdSetPowerMode sleep => cases sleep <;> rfl
  | cmdSetCycle n =>
    have hn : n < 256 := of_decide_eq_true hwf
    have hv : (BitVec.ofNat 8 n).toNat = n := by rw [BitVec.toNat_ofNat, Nat.mod_eq_of_lt hn]
    exact (decodeCmd_cmdFrame_setCycle n).trans (by rw [hv])
  | cmdReserved tag arg =>
    have htag : tag = 6 ∨ tag = 7 := (six_le_tag_iff tag).mp (of_decide_eq_true hwf)
    exact congrArg Except.ok (decodeCmdPort_reserved htag arg)
  | rspReadout a b c d x y => exact decode_rspFrame rfl (decodeCandidate_readout rfl rfl)
  | rspVersion y m d a b => exact decode_rspFrame rfl (decodeCandidate_version rfl rfl (by simp [rspFrame]))
  | rspReportingMode v => exact decode_rspFrame rfl (decodeCandidate_reportingMode rfl rfl)
  | rspDeviceIdChanged a b =>
    exact decode_rspFrame rfl (decodeCandidate_deviceIdChanged rfl rfl (by simp [rspFrame]))
  | rspPowerMode v => exact decode_rspFrame rfl (decodeCandidate_powerMode rfl rfl)
  | rspCycle v => exact decode_rspFrame rfl (decodeCandidate_cycle rfl rfl)
  | rspUnknown rawBytes =>
    obtain ⟨hok, hrow⟩ := Bool.and_eq_true_iff.mp hwf
    exact (decodeRsp_of_candidateOk hok).trans
      (congrArg Except.ok (decodeCandidate_unknown (of_decide_eq_true hrow)))
  | strmReadout a b c d => rfl

end Sys2Proof.Machine
end

section
/-! ### O2: reading a command frame (30_encoding.md R64, R68; log 14)

A pattern and the bytes it leaves free determine a frame that fits it, so each row of the frame decoder determines the
frame's body (`decodeCmd_row`). -/

namespace Sys2Proof.Machine

/-- The frame that has the pattern's fixed bytes, and the bytes of `t` where the pattern leaves them free. -/
def fillPattern (p : FramePattern) (t : List Byte) : List Byte := p.mapIdx fun i b => b.getD (byteAt t i)

theorem eq_fillPattern_of_fitsPattern {p : FramePattern} {t : List Byte} (h : fitsPattern p t = true) :
    t = fillPattern p t := by
  induction p generalizing t with
  | nil =>
    cases t with
    | nil => rfl
    | cons b bs => simp [fitsPattern] at h
  | cons o ps ih =>
    cases t with
    | nil => cases o <;> simp [fitsPattern] at h
    | cons b bs =>
      cases o with
      | none =>
        have hbs : bs = fillPattern ps bs := ih (by simpa [fitsPattern] using h)
        simpa [fillPattern, List.mapIdx_cons] using hbs
      | some q =>
        obtain ⟨hb, hps⟩ : b = q ∧ fitsPattern ps bs = true := by simpa [fitsPattern] using h
        have hbs : bs = fillPattern ps bs := ih hps
        simpa [fillPattern, List.mapIdx_cons, hb] using hbs

/-- The body of a frame that fits a pattern. -/
theorem slice_of_fitsPattern {p : FramePattern} {t : List Byte} (h : fitsPattern p t = true) :
    slice t 1 15 = slice (fillPattern p t) 1 15 :=
  congrArg (slice · 1 15) (eq_fillPattern_of_fitsPattern h)

/-- The value byte of SetReportingMode and SetPowerMode says no more than its flag. -/
theorem twoValued_eq {b : Byte} (h : twoValued b = true) : (if b == 0x00 then 0x00 else 0x01) = b := by
  obtain rfl | rfl : b = 0x00 ∨ b = 0x01 := by simpa [twoValued] using h
  · rfl
  · rfl

/-- What the frame decoder reads from a frame is a command, and the frame's body is that command's. -/
theorem decodeCmd_row {t : List Byte} {i : Instr} (h : decodeCmd t = .ok i) :
    (∃ body, encode i = .cmd (cmdFrame body) ∧ slice t 1 15 = body) ∧ isCommand i = true ∧ WellFormed i := by
  unfold decodeCmd at h
  split_ifs at h with _ _ _ _ hversion hreporting hquery hid hpower hcycle <;> cases h
  · refine ⟨⟨_, rfl, ?_⟩, rfl, rfl⟩
    rw [slice_of_fitsPattern hversion, bodyQueryVersion]
    simp [fillPattern, patQueryVersion, slice, cmdBody]
  · obtain ⟨hfits, hvalue⟩ := Bool.and_eq_true_iff.mp hreporting
    refine ⟨⟨_, rfl, ?_⟩, rfl, rfl⟩
    rw [slice_of_fitsPattern hfits, bodySetReportingMode, twoValued_eq hvalue]
    simp [fillPattern, patSetReportingMode, slice, cmdBody]
  · refine ⟨⟨_, rfl, ?_⟩, rfl, rfl⟩
    rw [slice_of_fitsPattern hquery, bodyQueryData]
    simp [fillPattern, patQueryData, slice, cmdBody]
  · refine ⟨⟨_, rfl, ?_⟩, rfl, rfl⟩
    rw [slice_of_fitsPattern hid, bodySetDeviceId, hiByte_devid, loByte_devid]
    simp [fillPattern, patSetDeviceId, slice, cmdBody]
  · obtain ⟨hfits, hvalue⟩ := Bool.and_eq_true_iff.mp hpower
    refine ⟨⟨_, rfl, ?_⟩, rfl, rfl⟩
    rw [slice_of_fitsPattern hfits, bodySetPowerMode, twoValued_eq hvalue]
    simp [fillPattern, patSetPowerMode, slice, cmdBody]
  · refine ⟨⟨_, rfl, ?_⟩, rfl, decide_eq_true (byteAt t 4).isLt⟩
    rw [slice_of_fitsPattern hcycle, bodySetCycle, BitVec.ofNat_toNat, BitVec.setWidth_eq]
    simp [fillPattern, patSetCycle, slice, cmdBody]

/-- Settles O2: a frame is its body between the markers (`decodeCmd_frame`), and the body is the command's. -/
theorem commandFrameHasOneMeaning : Obligations.CommandFrameHasOneMeaning := by
  intro t i h
  obtain ⟨-, hframe⟩ := decodeCmd_frame t i h
  obtain ⟨⟨body, hencode, rfl⟩, hcommand, hwf⟩ := decodeCmd_row h
  exact ⟨hframe ▸ hencode, hcommand, hwf⟩

end Sys2Proof.Machine
end

section
/-! ### O3: the command port (30_encoding.md R68, R74) -/

namespace Sys2Proof.Machine

theorem flagArg_getLsbD_zero (b : Bool) : (flagArg b).getLsbD 0 = b := by
  cases b <;> rfl

/-- The port's argument carries a cycle value below 256 in its low byte. -/
theorem loByte_cycleArg_toNat {n : Nat} (h : n < 256) : (loByte (BitVec.ofNat 16 (n % 256))).toNat = n := by
  rw [loByte_toNat, BitVec.toNat_ofNat]
  omega

/-- Settles O3, command by command; a reserved tag is left as it is. -/
theorem commandPortRoundTrip : Obligations.CommandPortRoundTrip := by
  intro i c hwf hc
  cases i with
  | cmdQueryVersion | cmdQueryData => cases hc; rfl
  | cmdSetReportingMode flag => cases hc; exact congrArg Instr.cmdSetReportingMode (flagArg_getLsbD_zero flag)
  | cmdSetDeviceId id => cases hc; rfl
  | cmdSetPowerMode flag => cases hc; exact congrArg Instr.cmdSetPowerMode (flagArg_getLsbD_zero flag)
  | cmdSetCycle n => cases hc; exact congrArg Instr.cmdSetCycle (loByte_cycleArg_toNat (of_decide_eq_true hwf))
  | cmdReserved tag arg =>
    cases hc
    exact decodeCmdPort_reserved ((six_le_tag_iff tag).mp (of_decide_eq_true hwf)) arg
  | _ => cases hc

end Sys2Proof.Machine
end

section
/-! ### O4: ignored argument bits and reserved tags (30_encoding.md R70) -/

namespace Sys2Proof.Machine

/-- The tags of the event port (R75): 0 to 9, and 15 for a raw byte of an Unknown. -/
theorem Event.beats_tag (e : Event) : ∀ b ∈ e.beats, b.tag.toNat ≤ 9 ∨ b.tag.toNat = 15 := by
  have single {x : EventBeat} (hx : x.tag.toNat ≤ 9) : ∀ b ∈ [x], b.tag.toNat ≤ 9 ∨ b.tag.toNat = 15 := by
    simp [hx]
  cases e with
  | ready | error | readout => exact single (by simp)
  | response r =>
    cases r with
    | unknown rawBytes =>
      intro b hb
      obtain rfl | hraw := List.mem_cons.mp hb
      · exact .inl (by simp)
      · obtain ⟨_, -, rfl⟩ := List.mem_map.mp hraw
        exact .inr rfl
    | _ => exact single (by simp)

/-- An ENCODE of a reserved tag outside `FAILED` (R169). -/
theorem execCmdReserved_of_link_ne_failed {s : State} (hl : s.link ≠ .failed) (tag : BitVec 3) (arg : Half) :
    execCmdReserved tag arg s = .refused (.illegalCmd s.setIllegalCmd) := by
  simp [execCmdReserved, refuseIllegalCmd, hl]

/-- Settles O4: the port map tag by tag, the refusal of what it leaves reserved, and the tags of the beats. -/
theorem reservedTagsAndIgnoredBits : Obligations.ReservedTagsAndIgnoredBits := by
  refine ⟨fun arg => ⟨rfl, rfl, rfl, rfl, rfl, ?_⟩, fun tag arg s htag hl => ?_, Event.beats_tag⟩
  · exact congrArg Instr.cmdSetCycle (loByte_toNat arg)
  · rw [decodeCmdPort_reserved htag]
    exact execCmdReserved_of_link_ne_failed hl tag arg

end Sys2Proof.Machine
end

section
/-! ### O5: words of the spec (30_encoding.md R61, R63, R64, R68) -/

namespace Sys2Proof.Machine

/-- Settles O5: the decoder evaluates on each word. -/
theorem specWordsDecode : Obligations.SpecWordsDecode :=
  ⟨rfl, rfl, rfl, rfl, rfl, rfl, rfl, rfl, rfl, rfl⟩

end Sys2Proof.Machine
end

section
/-! ### O7: a step runs the transaction presented (20_memory.md R48, 70_reset_and_hazards.md R239) -/

namespace Sys2Proof.Machine

/-- What the decoder reads from a cycle's signals is the cycle's next transaction: the converse of `decode_txn`. -/
theorem exists_nextTxn_of_decode {mode : FramingMode} {p : PortCycle} {i : Instr}
    (h : decode (.txn mode p) = .ok i) : ∃ p', nextTxn mode p = some (i, p') := by
  rw [decode] at h
  cases hn : nextTxn mode p with
  | none => rw [hn] at h; cases h
  | some x => rw [hn] at h; cases h; exact ⟨x.2, rfl⟩

/-- Only the `rst` strobe is read as RESET: no chunk and no command tag is. -/
theorem rst_of_nextTxn_reset {mode : FramingMode} {p p' : PortCycle} (h : nextTxn mode p = some (.reset, p')) :
    p.rst = true := by
  unfold nextTxn at h
  split at h
  case isTrue hrst => exact hrst
  split at h
  · cases h
  split at h
  · cases h
  split at h
  · cases mode <;> cases h
  split at h
  · unfold decodeCmdPort at h
    split_ifs at h <;> cases h
  · cases h

/-- The fourth of the things a step can do (`step_cases`), with its conditions. -/
theorem step_of_nextTxn_some {s : State} {p p' : PortCycle} {ps : List PortCycle} {i : Instr}
    (h : s.inputs = p :: ps) (hn : nextTxn s.cfg.framingMode p = some (i, p'))
    (hgo : p.rst = true ∨ (s.takeOutputs p).inReady = true) :
    step s = exec i { s.takeOutputs p with now := p.now, inputs := p'.rest ++ ps } := by
  have hgo : (p.rst || (s.takeOutputs p).inReady) = true := by simpa using hgo
  simp [step, fetch, h, hn, hgo]

/-- Settles O7: the decoded instruction is the cycle's next transaction, and RESET comes from its strobe. -/
theorem stepRunsPresentedTransaction : Obligations.StepRunsPresentedTransaction := by
  refine ⟨fun s p ps i h hd hgo => ?_, fun s p he ht => ?_⟩
  · obtain ⟨p', hn⟩ := exists_nextTxn_of_decode hd
    refine ⟨p', hn, step_of_nextTxn_some h hn (hgo.imp_left ?_)⟩
    rintro rfl
    exact rst_of_nextTxn_reset hn
  · rw [s.takeOutputs_all p he ht]
    exact ⟨s.idlePorts_inReady, rfl⟩

end Sys2Proof.Machine
end

section
/-! ### O49: the event records (30_encoding.md R75)

What a field of a record carries in the bits the table names; the records themselves are `Event.beats`. -/

namespace Sys2Proof.Machine

theorem lowField_toNat (b : Byte) : (lowField b).toNat = b.toNat := by
  have := b.isLt
  rw [lowField, BitVec.toNat_ofNat, Nat.mod_eq_of_lt (by omega)]

theorem lowField_extract (b : Byte) : (lowField b).extractLsb' 0 8 = b := by
  apply BitVec.eq_of_toNat_eq
  have := b.isLt
  simp only [BitVec.extractLsb'_toNat, lowField_toNat, Nat.shiftRight_zero]
  omega

theorem u16le_extract_lo (lo hi : Byte) : (u16le lo hi).extractLsb' 0 8 = lo := by
  apply BitVec.eq_of_toNat_eq
  have := lo.isLt
  simp only [BitVec.extractLsb'_toNat, u16le_toNat, Nat.shiftRight_zero]
  omega

theorem u16le_extract_hi (lo hi : Byte) : (u16le lo hi).extractLsb' 8 8 = hi := by
  apply BitVec.eq_of_toNat_eq
  have := lo.isLt
  have := hi.isLt
  simp only [BitVec.extractLsb'_toNat, u16le_toNat, Nat.shiftRight_eq_div_pow]
  omega

theorem flagField_getLsbD_zero (b : Bool) : (flagField b).getLsbD 0 = b := by
  cases b <;> rfl

/-- The grades in their bits, and nothing in the others (log 25). -/
theorem gradesField_layout (g10 g25 : Fin 6) :
    ((gradesField g10 g25).extractLsb' 0 3).toNat = g10.val ∧
    ((gradesField g10 g25).extractLsb' 4 3).toNat = g25.val ∧
    (gradesField g10 g25).getLsbD 3 = false ∧ (gradesField g10 g25).toNat < 128 := by
  revert g10 g25; decide

/-- The beats that follow the header of an Unknown, beside the bytes they carry. -/
theorem rawBeat_of_mem_zip {f : List Byte} {x : EventBeat × Byte}
    (hx : x ∈ (f.map fun b => ({ tag := 0xF, a := lowField b } : EventBeat)).zip f) :
    x.1 = { tag := 0xF, a := lowField x.2 } := by
  induction f with
  | nil => cases hx
  | cons b f ih =>
    obtain rfl | hx := List.mem_cons.mp hx
    · rfl
    · exact ih hx

/-- The length field of an Unknown, which the port carries up to 65535 (log 20). -/
theorem lengthField_toNat {f : List Byte} (h : f.length ≤ 65535) : (BitVec.ofNat 16 f.length).toNat = f.length := by
  rw [BitVec.toNat_ofNat, Nat.mod_eq_of_lt (by omega)]

/-- Settles O49: each record is `Event.beats` of its event, and the lemmas above read the named bits of its fields. -/
theorem eventRecordLayout : Obligations.EventRecordLayout := by
  refine ⟨rfl, ⟨_, rfl, lowField_extract _⟩, fun _ _ _ _ => rfl, fun y m d i => ?_, fun v => ?_, fun _ => rfl,
    fun v => ?_, fun v => ?_, fun f hf => ?_, fun p q g h => ?_, State.emit_eventBeats⟩
  · exact ⟨_, _, rfl, u16le_extract_lo y m, u16le_extract_hi y m, lowField_extract d⟩
  · exact ⟨_, rfl, flagField_getLsbD_zero v⟩
  · exact ⟨_, rfl, flagField_getLsbD_zero v⟩
  · exact ⟨_, rfl, lowField_extract v⟩
  · exact ⟨_, _, rfl, lengthField_toNat hf, List.length_map _,
      fun x hx => ⟨_, rawBeat_of_mem_zip hx, lowField_extract x.2⟩⟩
  · obtain ⟨h10, h25, -, -⟩ := gradesField_layout g h
    exact ⟨_, rfl, h10, h25⟩

end Sys2Proof.Machine
end

section
/-! ### O50: the bits of a field in use that R75 does not name (log 25) -/

namespace Sys2Proof.Machine

theorem lowField_lt (b : Byte) : (lowField b).toNat < 256 :=
  lowField_toNat b ▸ b.isLt

theorem flagField_lt (b : Bool) : (flagField b).toNat < 2 := by
  cases b <;> decide

/-- The raw bytes of an Unknown are the beats of tag 15: its header has tag 8. -/
theorem rawBeat_of_mem_unknown {f : List Byte} {x : EventBeat} (hx : x ∈ Event.beats (.response (.unknown f)))
    (htag : x.tag = 0xF) : ∃ b ∈ f, x = { tag := 0xF, a := lowField b } := by
  obtain rfl | hraw := List.mem_cons.mp hx
  · cases htag
  · obtain ⟨b, hb, rfl⟩ := List.mem_map.mp hraw
    exact ⟨b, hb, rfl⟩

/-- Settles O50, field by field; every event but an Unknown is one beat. -/
theorem unnamedEventBitsAreZero : Obligations.UnnamedEventBitsAreZero := by
  refine ⟨?_, fun y m d i => ?_, fun v => ?_, fun v => ?_, fun v => ?_, fun f x hx htag => ?_, fun p q g h => ?_⟩
  · exact List.forall_mem_singleton.mpr (lowField_lt _)
  · exact List.forall_mem_singleton.mpr (lowField_lt d)
  · exact List.forall_mem_singleton.mpr (flagField_lt v)
  · exact List.forall_mem_singleton.mpr (flagField_lt v)
  · exact List.forall_mem_singleton.mpr (lowField_lt v)
  · obtain ⟨b, -, rfl⟩ := rawBeat_of_mem_unknown hx htag
    exact lowField_lt b
  · obtain ⟨-, -, h3, hlt⟩ := gradesField_layout g h
    exact List.forall_mem_singleton.mpr ⟨h3, hlt⟩

end Sys2Proof.Machine
end

section
/-! ### What PUSH_CHUNK does with a chunk (40_assembler.md R100, R101)

The outcomes of the front end, one lemma each, and of `CR_PROCESS` on a chunk the front end lets in. The bytes a
candidate needs are read once, in `candidateOk_iff`. -/

namespace Sys2Proof.Machine

section
variable {s : State} {c : List Byte} {process : State → StepOutcome}

/-! ### The front end -/

theorem fitsCap_infinite {cfg : Config} (h : cfg.bufCap = none) (n : Nat) : fitsCap cfg n = true := by
  simp [fitsCap, h]

theorem fitsCap_finite {cfg : Config} {cap : Nat} (h : cfg.bufCap = some cap) (n : Nat) :
    fitsCap cfg n = decide (n ≤ cap) := by
  simp [fitsCap, h]

theorem pushFront_of_ovf (h : s.ovf = true) : pushFront process c s = .next s := by
  simp [pushFront, h]

theorem pushFront_overflow (hl : s.link ≠ .failed) (ho : s.ovf = false)
    (hc : fitsCap s.cfg (s.buf.length + c.length) = false) : pushFront process c s = .fault (.ovf s.setOvf) := by
  simp [pushFront, raiseOvf, hl, ho, hc]

/-- A chunk that fits is ignored or goes to the mode's algorithm. -/
theorem pushFront_fits (hc : fitsCap s.cfg (s.buf.length + c.length) = true) :
    pushFront process c s = .next s ∨ pushFront process c s = process (s.setBuf (s.buf ++ c)) := by
  obtain ⟨-, e⟩ | ⟨-, -, e⟩ | ⟨-, -, hc', -⟩ | ⟨-, e⟩ := pushFront_cases process c s
  · exact .inl e
  · exact .inl e
  · rw [hc] at hc'; cases hc'
  · exact .inr e

theorem pushFront_next (hp : ∀ u, ∃ t, process u = .next t)
    (hc : fitsCap s.cfg (s.buf.length + c.length) = true) : ∃ t, pushFront process c s = .next t := by
  obtain e | e := pushFront_fits (process := process) hc
  · exact ⟨s, e⟩
  · exact e ▸ hp _

theorem streamProcess_next (u : State) : ∃ t, streamProcess u = .next t := ⟨_, streamProcess_eq u⟩

/-- A chunk that fits completes in either mode. -/
theorem exec_pushChunk_next (hc : fitsCap s.cfg (s.buf.length + c.length) = true) :
    (∃ t, exec (.pushChunkCr c) s = .next t) ∧ ∃ t, exec (.pushChunkStream c) s = .next t :=
  ⟨pushFront_next crProcess_next hc, pushFront_next streamProcess_next hc⟩

theorem State.accepts.mono {n m : Nat} (h : s.accepts m) (hnm : n ≤ m) : s.accepts n := by
  obtain ⟨hl, ho, hc⟩ := h
  exact ⟨hl, ho, fitsCap_mono _ _ _ (by omega) hc⟩

/-- Room for a chunk and for more is room for the more once the chunk is in. -/
theorem State.accepts.setBuf {b : List Byte} {n m : Nat} (h : s.accepts m) (hb : b.length + n ≤ s.buf.length + m) :
    (s.setBuf b).accepts n := by
  obtain ⟨hl, ho, hc⟩ := h
  exact ⟨hl, ho, fitsCap_mono _ _ _ hb hc⟩

theorem State.setBuf_of_buf_eq {b : List Byte} (h : s.buf = b) : s.setBuf b = s := h ▸ rfl

/-! ### A candidate -/

theorem candidateOk_iff {f : List Byte} : candidateOk f = true ↔
    ∃ _ : 5 ≤ f.length, f[0] = 0xAA ∧ f[f.length - 1] = 0xAB ∧ csOk f = true := by
  by_cases h : 5 ≤ f.length
  · simp [candidateOk, markersOk, h, byteAt_eq_getElem (f := f) (i := 0) (by omega),
      byteAt_eq_getElem (f := f) (i := f.length - 1) (by omega), and_assoc]
  · simp [candidateOk, h]

/-! ### Command/response mode -/

theorem exec_pushChunkCr (ha : s.accepts c.length) :
    exec (.pushChunkCr c) s = crProcess (s.setBuf (s.buf ++ c)) :=
  pushFront_accepts crProcess c s ha

theorem exec_pushChunkCr_kept (ha : s.accepts c.length) (hb : (s.buf ++ c).length < 5) :
    exec (.pushChunkCr c) s = .next (s.setBuf (s.buf ++ c)) := by
  rw [exec_pushChunkCr ha, crProcess_eq, State.setBuf_buf, if_pos hb]

theorem exec_pushChunkCr_dropped (ha : s.accepts c.length) (hb : 5 ≤ (s.buf ++ c).length)
    (hf : candidateOk (s.buf ++ c) = false) : exec (.pushChunkCr c) s = .next (s.setBuf []) := by
  rw [exec_pushChunkCr ha, crProcess_eq, State.setBuf_buf, if_neg (by omega), if_neg (by simp [hf]),
    State.setBuf_setBuf]

theorem crProcess_of_candidateOk (hf : candidateOk s.buf = true) :
    crProcess s = exec (decodeCandidate s.buf) (s.setBuf []) := by
  have hb := five_le_of_candidateOk hf
  rw [crProcess_eq, if_neg (by omega), if_pos hf, runResponse_eq_exec]

theorem exec_pushChunkCr_decoded (ha : s.accepts c.length) (hf : candidateOk (s.buf ++ c) = true) :
    exec (.pushChunkCr c) s = exec (decodeCandidate (s.buf ++ c)) (s.setBuf []) := by
  rw [exec_pushChunkCr ha, crProcess_of_candidateOk hf, State.setBuf_buf, State.setBuf_setBuf]

/-- The row a candidate decodes to emits one response and writes nothing else (R130). -/
theorem exec_decodeCandidate (f : List Byte) (s : State) :
    ∃ r, exec (decodeCandidate f) s = .next (s.emit (.response r)) :=
  runResponse_eq_exec f s ▸ runResponse_cases f s

end

end Sys2Proof.Machine
end

section
/-! ### O16: the capacity check (40_assembler.md R102) -/

namespace Sys2Proof.Machine

/-- Settles O16, by the outcomes of the front end that both modes share. -/
theorem overflowIsAStickyFault : Obligations.OverflowIsAStickyFault := by
  refine ⟨fun s c cap hl ho hcap hlt => ?_, fun s c h => ⟨pushFront_of_ovf h, pushFront_of_ovf h⟩,
    fun s c cap _ _ hcap hle => ?_, fun s c hinf => exec_pushChunk_next (fitsCap_infinite hinf _)⟩
  · have hc : fitsCap s.cfg (s.buf.length + c.length) = false := by simpa [fitsCap_finite hcap] using hlt
    exact ⟨pushFront_overflow hl ho hc, pushFront_overflow hl ho hc⟩
  · exact exec_pushChunk_next (by simpa [fitsCap_finite hcap] using hle)

end Sys2Proof.Machine
end

section
/-! ### O18: the outcomes of PUSH_CHUNK.CR (40_assembler.md R101, R103, R104, R106, R107) -/

namespace Sys2Proof.Machine

/-- Settles O18: a short buffer is kept, a candidate that misses one of the three tests of `candidateOk_iff` is
dropped, one that passes them is decoded. -/
theorem crChunkOutcome : Obligations.CrChunkOutcome := by
  rintro s c ha f rfl
  have dropped (hb : 5 ≤ (s.buf ++ c).length) (hf : ¬candidateOk (s.buf ++ c) = true) :
      exec (.pushChunkCr c) s = .next { s with buf := [] } :=
    exec_pushChunkCr_dropped ha hb (Bool.eq_false_iff.mpr hf)
  refine ⟨exec_pushChunkCr_kept ha, fun h hmark => dropped h ?_, fun h hsum => dropped h ?_,
    fun h hsof heof hsum => ?_⟩
  · rw [candidateOk_iff]
    rintro ⟨_, hsof, heof, -⟩
    exact hmark.elim (· hsof) (· heof)
  · rw [candidateOk_iff]
    rintro ⟨_, -, -, hok⟩
    rw [hsum] at hok; cases hok
  · have e := exec_pushChunkCr_decoded ha (candidateOk_iff.mpr ⟨h, hsof, heof, hsum⟩)
    obtain ⟨r, hr⟩ := exec_decodeCandidate (s.buf ++ c) (s.setBuf [])
    exact ⟨e, r, e.trans hr⟩

end Sys2Proof.Machine
end

section
/-! ### O19: the checksum validator (40_assembler.md R105) -/

namespace Sys2Proof.Machine

/-- `csOk_wrap` for any start and end byte: the validator reads neither. -/
theorem csOk_between (sof eof : Byte) (b : List Byte) (cs : Byte) :
    csOk (sof :: (b ++ [cs, eof])) = (sum8 b == cs) := by
  have hcs : byteAt (sof :: (b ++ [cs, eof])) (b.length + 1) = cs := by
    rw [byteAt_cons_succ, byteAt_append_right _ _ _ (le_refl _), Nat.sub_self, byteAt_cons_zero]
  have hl : (sof :: (b ++ [cs, eof])).length - 2 = b.length + 1 := by simp
  rw [csOk, hl, slice_one_cons _ _ _ _ rfl, hcs]

theorem sum8_eq_iff {b : List Byte} {cs : Byte} : sum8 b = cs ↔ (b.map BitVec.toNat).sum % 256 = cs.toNat := by
  rw [← BitVec.toNat_inj, sum8, BitVec.toNat_ofNat]

/-- Settles O19, by `csOk_between`. -/
theorem checksumValidator : Obligations.ChecksumValidator := by
  intro sof b cs eof _
  rw [csOk_between, beq_iff_eq, sum8_eq_iff]

end Sys2Proof.Machine
end

section
/-! ### O20: one event at most (40_assembler.md R108) -/

namespace Sys2Proof.Machine

/-- Settles O20, by the effects a PUSH_CHUNK.CR can have. -/
theorem crAtMostOneResponse : Obligations.CrAtMostOneResponse := by
  intro s c t hbuf h
  cases exec_effect h with
  | ignored | overflow => exact ⟨hbuf, .inl rfl⟩
  | crKept _ _ hb => exact ⟨Nat.le_of_lt_succ hb, .inl rfl⟩
  | crDropped => exact ⟨Nat.zero_le _, .inl rfl⟩
  | crDecoded _ r _ _ hr =>
    exact ⟨Nat.zero_le _, .inr ⟨⟨r, rfl⟩, (runResponse_eq_exec _ _).symm.trans hr⟩⟩
  | command _ _ hi => cases hi
  | row _ _ hi => cases hi

end Sys2Proof.Machine
end

section
/-! ### O21: the readout frame on the wire (40_assembler.md R101, R105, 41_decoder.md R132, R147) -/

namespace Sys2Proof.Machine

/-- Between its markers a body of two bytes or more is a valid candidate exactly when the checksum byte is its sum. -/
theorem candidateOk_wrap {b : List Byte} (cs : Byte) (hb : 2 ≤ b.length) :
    candidateOk (0xAA :: (b ++ [cs, 0xAB])) = true ↔ sum8 b = cs := by
  rw [candidateOk, markersOk_wrap, csOk_wrap]
  simpa using fun _ => hb

/-- Settles O21: the sum in the condition is the checksum test of the candidate, which the row Readout then reads. -/
theorem crReadoutFrameOnTheWire : Obligations.CrReadoutFrameOnTheWire := by
  intro s a b c d i j k ha hbuf
  have hcand : s.buf ++ [0xAA, 0xC0, a, b, c, d, i, j, k, 0xAB] = [0xAA, 0xC0, a, b, c, d, i, j, k, 0xAB] := by
    rw [hbuf, List.nil_append]
  have hf : candidateOk (s.buf ++ [0xAA, 0xC0, a, b, c, d, i, j, k, 0xAB]) = true ↔
      (0xC0 + a.toNat + b.toNat + c.toNat + d.toNat + i.toNat + j.toNat) % 256 = k.toNat := by
    rw [hcand]
    refine (candidateOk_wrap (b := [0xC0, a, b, c, d, i, j]) k (by simp)).trans (sum8_eq_iff.trans ?_)
    simp [Nat.add_assoc]
  split
  case isTrue hsum =>
    rw [exec_pushChunkCr_decoded ha (hf.mpr hsum), State.setBuf_of_buf_eq hbuf, hcand, decodeCandidate_readout rfl rfl]
    rfl
  case isFalse hsum =>
    rw [exec_pushChunkCr_dropped ha (by simp) (Bool.eq_false_iff.mpr (mt hf.mp hsum)), State.setBuf_of_buf_eq hbuf]

end Sys2Proof.Machine
end

section
/-! ### O22: a frame in pieces (40_assembler.md R119, R103, R104, R107; log 21) -/

namespace Sys2Proof.Machine

section
variable {s t : State} {i : Instr} {is : List Instr}

theorem execAll_cons_next (h : exec i s = .next t) : execAll (i :: is) s = execAll is t := by
  rw [execAll, h]

theorem execAll_singleton (i : Instr) (s : State) : execAll [i] s = exec i s := by
  rw [execAll]
  cases exec i s <;> rfl

end

/-- Pieces that reach 5 bytes only with the last of them are processed as the one chunk they make up. -/
theorem pushAllCr_eq_crProcess {cs : List (List Byte)} {s : State} (hbuf : s.buf.length < 5)
    (ha : s.accepts cs.flatten.length) (hfull : 5 ≤ (s.buf ++ cs.flatten).length)
    (hshort : ∀ k < cs.length, (s.buf ++ (cs.take k).flatten).length < 5) :
    pushAllCr cs s = crProcess (s.setBuf (s.buf ++ cs.flatten)) := by
  induction cs generalizing s with
  | nil => simp at hfull; omega
  | cons c cs ih =>
    have hac : s.accepts c.length := ha.mono (by simp)
    by_cases hc : (s.buf ++ c).length < 5
    · have ihc := ih (s := s.setBuf (s.buf ++ c)) hc (ha.setBuf (by simp; omega)) (by simpa using hfull)
        fun k hk => by simpa using hshort (k + 1) (by simpa using hk)
      rw [pushAllCr, List.map_cons, execAll_cons_next (exec_pushChunkCr_kept hac hc)]
      simpa [pushAllCr] using ihc
    · have hcs : cs = [] := by
        cases cs with
        | nil => rfl
        | cons d ds => exact absurd (by simpa using hshort 1 (by simp)) hc
      subst hcs
      rw [pushAllCr, List.map_singleton, execAll_singleton, exec_pushChunkCr hac, List.flatten_singleton]

/-- The first pieces that reach 5 bytes empty the buffer, and leave nothing at all if they are no valid candidate. -/
theorem crProcess_empties {s : State} (hb : 5 ≤ s.buf.length) :
    ∃ t, crProcess s = .next t ∧ t.buf = [] ∧ (candidateOk s.buf = false → t = s.setBuf []) := by
  obtain ⟨hshort, -⟩ | ⟨-, -, e⟩ | ⟨hf, e⟩ := crProcess_cases s
  · omega
  · exact ⟨_, e, rfl, fun _ => rfl⟩
  · obtain ⟨r, hr⟩ := runResponse_cases s.buf (s.setBuf [])
    exact ⟨_, e.trans hr, rfl, fun h => by rw [hf] at h; cases h⟩

/-- Settles O22: both clauses are `pushAllCr_eq_crProcess`, of all pieces and of the first ones. -/
theorem crFrameSplitAcrossChunks : Obligations.CrFrameSplitAcrossChunks := by
  intro s cs f hbuf hcs hf ha
  subst hcs
  refine ⟨fun hshort => ?_, fun j hj hfull hshort => ?_⟩
  · have e := pushAllCr_eq_crProcess (s := s) (by simp [hbuf]) ha
      (by simpa [hbuf] using five_le_of_candidateOk hf) (by simpa [hbuf] using hshort)
    rw [hbuf, List.nil_append] at e
    rw [e, crProcess_of_candidateOk hf, State.setBuf_buf, State.setBuf_setBuf, State.setBuf_of_buf_eq hbuf]
  · have hle : (cs.take j).flatten.length ≤ cs.flatten.length := by
      conv_rhs => rw [← List.take_append_drop j cs, List.flatten_append, List.length_append]
      omega
    have e := pushAllCr_eq_crProcess (cs := cs.take j) (s := s) (by simp [hbuf]) (ha.mono hle)
      (by simpa [hbuf] using hfull) fun k hk => by
        have hkj : k < j := by simp at hk; omega
        simpa [hbuf, List.take_take, Nat.min_eq_left hkj.le] using hshort k hkj
    rw [hbuf, List.nil_append] at e
    obtain ⟨t, ht, hempty, hdrop⟩ := crProcess_empties (s := s.setBuf (cs.take j).flatten) hfull
    exact ⟨t, e.trans ht, hempty, fun hbad => (hdrop hbad).trans (State.setBuf_of_buf_eq hbuf)⟩

end Sys2Proof.Machine
end

section
/-! ### O23: noise and malformed chunks (40_assembler.md R109, 70_reset_and_hazards.md R237) -/

namespace Sys2Proof.Machine

theorem candidateOk_noise {x : Byte} (xs : List Byte) (hx : x ≠ 0xAA) : candidateOk (x :: xs) = false := by
  rw [Bool.eq_false_iff, Ne, candidateOk_iff]
  rintro ⟨_, hsof, -⟩
  exact hx hsof

/-- Settles O23: noise without its start marker is no candidate, and a dropped chunk leaves the state it met. -/
theorem crNoiseAndDrops : Obligations.CrNoiseAndDrops := by
  refine ⟨fun s x xs c hx hbuf hxs ha => ?_, fun s bad good hbuf hbad hf ha => ?_⟩
  · exact exec_pushChunkCr_dropped ha (by simp [hbuf]; omega) (hbuf ▸ candidateOk_noise xs hx)
  · have e : exec (.pushChunkCr bad) s = .next s := by
      rw [exec_pushChunkCr_dropped ha (by simp [hbuf, hbad]) (by simpa [hbuf] using hf), State.setBuf_of_buf_eq hbuf]
    exact (execAll_cons_next e).trans (execAll_singleton _ _)

end Sys2Proof.Machine
end

section
/-! ### O24: the marker search (40_assembler.md R111) -/

namespace Sys2Proof.Machine

/-- The marker `0xAA 0xC0` stands at index `i`. -/
def MarkerAt (b : List Byte) (i : Nat) : Prop := byteAt b i = 0xAA ∧ byteAt b (i + 1) = 0xC0

/-- A byte past the end reads 0 (log 18), so a marker stands within the bytes. -/
theorem MarkerAt.within {b : List Byte} {i : Nat} (h : MarkerAt b i) : i + 2 ≤ b.length := by
  by_contra hlen
  have h0 : byteAt b (i + 1) = 0 := by
    rw [byteAt, List.getD_eq_getElem?_getD, List.getElem?_eq_none (by omega), Option.getD_none]
  obtain ⟨-, hC0⟩ := h
  exact absurd (h0.symm.trans hC0) (by decide)

/-- Along the recursion of the search: the first pair is the marker and index 0 the least, or the least index is one
more than in the tail. -/
theorem findMarker_eq_some_iff (b : List Byte) (i : Nat) :
    findMarker b = some i ↔ MarkerAt b i ∧ ∀ j < i, ¬MarkerAt b j := by
  induction b using findMarker.induct generalizing i with
  | case1 => exact ⟨nofun, fun h => absurd h.1.within (by simp)⟩
  | case2 a => exact ⟨nofun, fun h => absurd h.1.within (by simp)⟩
  | case3 a c rest h =>
    have h0 : MarkerAt (a :: c :: rest) 0 := h
    rw [findMarker, if_pos h, Option.some_inj]
    refine ⟨?_, fun ⟨_, hleast⟩ => ?_⟩
    · rintro rfl
      exact ⟨h0, fun j hj => absurd hj (Nat.not_lt_zero j)⟩
    · by_contra hi
      exact hleast 0 (by omega) h0
  | case4 a c rest h ih =>
    have h0 : ¬MarkerAt (a :: c :: rest) 0 := h
    rw [findMarker, if_neg h]
    cases i with
    | zero => simp [h0]
    | succ i =>
      simp only [Option.map_eq_some_iff, Nat.add_right_cancel_iff, exists_eq_right, ih]
      refine and_congr_right fun _ => ⟨fun hleast j hj => ?_, fun hleast j hj => hleast (j + 1) (by omega)⟩
      cases j with
      | zero => exact h0
      | succ j => exact hleast j (by omega)

/-- Where there is a marker there is a least one, which the search finds. -/
theorem findMarker_eq_none_iff_forall (b : List Byte) : findMarker b = none ↔ ∀ i, ¬MarkerAt b i := by
  classical
  rw [Option.eq_none_iff_forall_ne_some]
  refine ⟨fun h i hi => ?_, fun h i hi => h i ((findMarker_eq_some_iff b i).mp hi).1⟩
  have hex : ∃ i, MarkerAt b i := ⟨i, hi⟩
  exact h (Nat.find hex) ((findMarker_eq_some_iff b _).mpr ⟨Nat.find_spec hex, fun _ => Nat.find_min hex⟩)

/-- Settles O24; the bounds of the statement hold of every marker. -/
theorem markerSearchIsLeftmost : Obligations.MarkerSearchIsLeftmost := by
  refine fun b => ⟨fun i => (findMarker_eq_some_iff b i).trans ?_, (findMarker_eq_none_iff_forall b).trans ?_⟩
  · exact ⟨fun ⟨hi, hleast⟩ => ⟨hi.within, hi.left, hi.right, hleast⟩,
      fun ⟨_, hAA, hC0, hleast⟩ => ⟨⟨hAA, hC0⟩, hleast⟩⟩
  · exact ⟨fun h i _ => h i, fun h i hi => h i hi.within hi⟩

end Sys2Proof.Machine
end

section
/-! ### What PUSH_CHUNK.STREAM does with a chunk (40_assembler.md R110, R122)

A chunk let in is the parse of the bytes then in the buffer (`exec_pushChunkStream`), so the statements about streaming
mode are about `streamParse`: its three forms, what it leaves, and what it makes of an append. -/

namespace Sys2Proof.Machine

section
variable {s : State} {b c : List Byte}

/-- The state after the parse of the bytes `b`. -/
def State.parsed (s : State) (b : List Byte) : State :=
  { s with buf := (streamParse b).2, evq := s.evq ++ (streamParse b).1.map payloadEvent }

theorem exec_pushChunkStream (ha : s.accepts c.length) :
    exec (.pushChunkStream c) s = .next (s.parsed (s.buf ++ c)) :=
  (pushFront_accepts streamProcess c s ha).trans (streamProcess_eq _)

theorem State.parsed_of_streamParse {ps : List (List Byte)} {rest : List Byte} (h : streamParse b = (ps, rest)) :
    s.parsed b = { s with buf := rest, evq := s.evq ++ ps.map payloadEvent } := by
  rw [State.parsed, h]

/-- The parse of bytes that hold no whole frame writes the buffer only. -/
theorem State.parsed_of_streamParse_nil {rest : List Byte} (h : streamParse b = ([], rest)) :
    s.parsed b = s.setBuf rest := by
  simp [State.parsed, h, State.setBuf]

/-- The parse emits the first frame and goes on with the bytes after it. -/
theorem State.parsed_frame {pre p rest : List Byte} (h : BeforeFirstMarker pre) (hp : p.length = 8) :
    s.parsed (pre ++ 0xAA :: 0xC0 :: (p ++ rest)) = (s.emit (payloadEvent p)).parsed rest := by
  rw [State.parsed, streamParse_frame pre p rest h hp]
  simp [State.parsed, State.emit]

/-- Two parses one after another are one. -/
theorem State.parsed_parsed (d : List Byte) : (s.parsed b).parsed ((s.parsed b).buf ++ d) = s.parsed (b ++ d) := by
  simp [State.parsed, streamParse_append b d]

/-- A buffer as PUSH_CHUNK.STREAM leaves it (R122). -/
theorem bufSettled_stream_iff : bufSettled .stream b = true ↔
    NoMarker b ∨ ∃ post, b = 0xAA :: 0xC0 :: post ∧ post.length < 8 := by
  rw [← findMarker_eq_none_iff]
  simp only [bufSettled, Bool.or_eq_true, Option.isNone_iff_eq_none, Bool.and_eq_true, beq_iff_eq, decide_eq_true_eq]
  refine or_congr_right ⟨fun ⟨htake, hlen⟩ => ⟨b.drop 2, ?_, by simp; omega⟩, ?_⟩
  · conv_lhs => rw [← List.take_append_drop 2 b, htake]
    rfl
  · rintro ⟨post, rfl, hlen⟩
    exact ⟨rfl, by simp; omega⟩

/-- A settled buffer is not parsed further. -/
theorem streamParse_of_settled (h : bufSettled .stream b = true) : streamParse b = ([], b) := by
  obtain hno | ⟨post, rfl, hlen⟩ := bufSettled_stream_iff.mp h
  · exact streamParse_noMarker b hno
  · exact streamParse_partial [] post (noMarker_singleton _) hlen

theorem State.parsed_of_settled (h : bufSettled .stream s.buf = true) : s.parsed s.buf = s :=
  State.parsed_of_streamParse_nil (streamParse_of_settled h)

end

end Sys2Proof.Machine
end

section
/-! ### O17: the empty chunk (40_assembler.md R120) -/

namespace Sys2Proof.Machine

theorem pushFront_nil {process : State → StepOutcome} {s : State} (hcap : fitsCap s.cfg s.buf.length = true)
    (hp : process s = .next s) : pushFront process [] s = .next s := by
  obtain e | e := pushFront_fits (process := process) (c := []) hcap
  · exact e
  · rw [e, List.append_nil, State.setBuf_self, hp]

/-- Settles O17: the algorithm of either mode leaves its own settled buffer as it is. -/
theorem emptyChunkIsNoOp : Obligations.EmptyChunkIsNoOp := by
  refine fun s hcap => ⟨fun hset => pushFront_nil hcap ?_, fun hset => pushFront_nil hcap ?_⟩
  · have hlen : s.buf.length ≤ 4 := of_decide_eq_true hset
    rw [crProcess_eq, if_pos (by omega)]
  · exact (streamProcess_eq s).trans (congrArg _ (State.parsed_of_settled hset))

end Sys2Proof.Machine
end

section
/-! ### O25: the outcomes of PUSH_CHUNK.STREAM (40_assembler.md R112 to R115) -/

namespace Sys2Proof.Machine

/-- Settles O25, by the form of the buffer; what follows a whole frame is no longer than the buffer, so it is let in
as the empty chunk is. -/
theorem streamChunkOutcome : Obligations.StreamChunkOutcome := by
  intro s c ha
  rw [exec_pushChunkStream ha]
  refine ⟨fun hno => ?_, fun pre post hbuf hpre hpost => ?_, fun pre p0 p1 p2 p3 p4 p5 p6 p7 rest hbuf hpre => ?_⟩
  · exact congrArg _ (State.parsed_of_streamParse_nil (streamParse_noMarker _ hno))
  · rw [hbuf]
    exact congrArg _ (State.parsed_of_streamParse_nil (streamParse_partial pre post hpre hpost))
  · have hlen : rest.length ≤ s.buf.length + c.length := by
      have := congrArg List.length hbuf
      simp at this
      omega
    have hrest : ((s.setBuf rest).emit (streamReadout p0 p1 p2 p3)).accepts 0 := ha.setBuf hlen
    have htail : exec (.pushChunkStream []) ((s.setBuf rest).emit (streamReadout p0 p1 p2 p3)) =
        .next ((s.emit (streamReadout p0 p1 p2 p3)).parsed rest) := by
      rw [exec_pushChunkStream hrest, List.append_nil]
      rfl
    have hframe := State.parsed_frame (s := s) (p := [p0, p1, p2, p3, p4, p5, p6, p7]) (rest := rest) hpre rfl
    rw [hbuf]
    exact (congrArg _ hframe).trans ((execAll_cons_next rfl).trans ((execAll_singleton _ _).trans htail)).symm

end Sys2Proof.Machine
end

section
/-! ### O31: the greedy parse (40_assembler.md R118) -/

namespace Sys2Proof.Machine

/-- The loop extracts a greedy parse. -/
theorem greedyParse_streamParse (b : List Byte) : GreedyParse b (streamParse b).1 := by
  induction b using stream_induction with
  | none b h => rw [streamParse_noMarker b h]; exact .noMarker b h
  | part pre post h hp => rw [streamParse_partial pre post h hp]; exact .partialFrame pre post h hp
  | frame pre p rest h hp ih => rw [streamParse_frame pre p rest h hp]; exact .frame pre p rest _ h hp ih

/-- No other sequence of payloads is one. -/
theorem GreedyParse.eq_streamParse {b : List Byte} {ps : List (List Byte)} (h : GreedyParse b ps) :
    ps = (streamParse b).1 := by
  induction h with
  | noMarker b h => rw [streamParse_noMarker b h]
  | partialFrame pre post h hp => rw [streamParse_partial pre post h hp]
  | frame pre p rest ps h hp _ ih => rw [streamParse_frame pre p rest h hp, ih]

/-- Settles O31: the parse is what the loop extracts. -/
theorem greedyParseIsAFunction : Obligations.GreedyParseIsAFunction :=
  fun b => ⟨_, greedyParse_streamParse b, fun _ h => h.eq_streamParse⟩

end Sys2Proof.Machine
end

section
/-! ### O26, O27, O28, O29: what a streaming chunk emits and leaves (40_assembler.md R110, R115 to R118, R122) -/

namespace Sys2Proof.Machine

/-- Settles O26: the parse of the buffer and the chunk is the greedy one. -/
theorem streamChunkEmitsParsedFrames : Obligations.StreamChunkEmitsParsedFrames :=
  fun _ _ ha => ⟨_, _, greedyParse_streamParse _, exec_pushChunkStream ha⟩

/-- Settles O27: what the parse leaves is settled. -/
theorem streamBufferSettled : Obligations.StreamBufferSettled := by
  intro s c t ha h
  cases (exec_pushChunkStream ha).symm.trans h
  obtain hno | ⟨post, hbuf, hlen⟩ := bufSettled_stream_iff.mp (streamParse_settled (s.buf ++ c))
  · exact .inl ((findMarker_eq_none_iff _).mpr hno)
  · refine .inr ?_
    simp [State.parsed, hbuf]
    omega

/-- Settles O28: the parse takes the frame out and goes on with the bytes after it, which hold no marker. -/
theorem streamPayloadIsNeverRescanned : Obligations.StreamPayloadIsNeverRescanned := by
  intro s p rest hbuf hp hno ha
  rw [exec_pushChunkStream (ha.mono (by simp [hp]; omega)), hbuf, List.nil_append]
  have hparse : streamParse (0xAA :: 0xC0 :: (p ++ rest)) = ([p], rest) := by
    have e := streamParse_frame [] p rest (noMarker_singleton _) hp
    rwa [streamParse_noMarker rest hno] at e
  exact congrArg _ (State.parsed_of_streamParse hparse)

/-- Settles O29: the parse leaves no more than it was given, so the second chunk is let in, and two parses one after
another are one. -/
theorem streamChunksConcatenate : Obligations.StreamChunksConcatenate := by
  intro s c d ha
  have hc : s.accepts c.length := ha.mono (by omega)
  have hd : (s.parsed (s.buf ++ c)).accepts d.length := by
    have hle := streamParse_length_le (s.buf ++ c)
    exact ha.setBuf (b := (streamParse (s.buf ++ c)).2) (by simp at hle; omega)
  have hcd : s.accepts (c ++ d).length := by rwa [List.length_append]
  calc pushAllStream [c, d] s
      = exec (.pushChunkStream d) (s.parsed (s.buf ++ c)) :=
        (execAll_cons_next (exec_pushChunkStream hc)).trans (execAll_singleton _ _)
    _ = .next ((s.parsed (s.buf ++ c)).parsed ((s.parsed (s.buf ++ c)).buf ++ d)) := exec_pushChunkStream hd
    _ = .next (s.parsed (s.buf ++ (c ++ d))) := by rw [State.parsed_parsed, List.append_assoc]
    _ = exec (.pushChunkStream (c ++ d)) s := (exec_pushChunkStream hcd).symm

end Sys2Proof.Machine
end

section
/-! ### O30: a streaming session (40_assembler.md R118)

`ParsedOn s c t` says what every transaction of a session keeps to: it is the parse of the bytes delivered, as far as
buffer and readouts go. It composes, so a session is one parse of the whole stream. -/

namespace Sys2Proof.Machine

/-- From `s` to `t` the bytes `c` were parsed: `t` holds what the parse leaves of them, and of its events those that
are readouts are the readouts of the frames extracted. -/
structure ParsedOn (s : State) (c : List Byte) (t : State) : Prop where
  buf : t.buf = (streamParse (s.buf ++ c)).2
  readouts : t.evq.filter isReadout = s.evq.filter isReadout ++ (streamParse (s.buf ++ c)).1.map payloadEvent

theorem filter_isReadout_payloadEvents (ps : List (List Byte)) :
    (ps.map payloadEvent).filter isReadout = ps.map payloadEvent := by
  rw [List.filter_eq_self]
  intro e he
  obtain ⟨p, -, rfl⟩ := List.mem_map.mp he
  rfl

section
variable {s u t : State} {c d : List Byte} {i : Instr}

/-- A transaction that delivers no byte and emits no readout. -/
theorem ParsedOn.of_no_chunk (hset : bufSettled .stream s.buf = true) (hbuf : t.buf = s.buf)
    (hev : t.evq.filter isReadout = s.evq.filter isReadout) : ParsedOn s [] t where
  buf := by rw [List.append_nil, streamParse_of_settled hset, hbuf]
  readouts := by rw [List.append_nil, streamParse_of_settled hset, hev, List.map_nil, List.append_nil]

theorem ParsedOn.parsed (s : State) (c : List Byte) : ParsedOn s c (s.parsed (s.buf ++ c)) where
  buf := rfl
  readouts := by simp [State.parsed, filter_isReadout_payloadEvents]

theorem ParsedOn.trans (h : ParsedOn s c u) (h' : ParsedOn u d t) : ParsedOn s (c ++ d) t where
  buf := by rw [h'.buf, h.buf, ← List.append_assoc, streamParse_append (s.buf ++ c)]
  readouts := by
    rw [h'.readouts, h.readouts, h.buf, ← List.append_assoc s.buf, streamParse_append (s.buf ++ c), List.map_append,
      List.append_assoc]

theorem ParsedOn.settled (h : ParsedOn s c t) : bufSettled .stream t.buf = true :=
  h.buf ▸ streamParse_settled _

/-- A command transmits its frame, which is no part of the stream received. -/
theorem exec_session_of_isCommand (hi : isCommand i = true) (hset : bufSettled .stream s.buf = true)
    (hl : s.link ≠ .failed) (ho : s.ovf = false) (h : exec i s = .next t) :
    ParsedOn s [] t ∧ t.link ≠ .failed ∧ t.ovf = false := by
  obtain ⟨body, he, -⟩ := isCommand_encodes hi
  obtain ⟨hfailed, -⟩ | ⟨-, e⟩ := encodeFront_cases body s
  · exact absurd hfailed hl
  · rw [he, e] at h
    cases h
    exact ⟨.of_no_chunk hset rfl rfl, hl, ho⟩

/-- A transaction of a session that completes parses its chunk, and leaves the block ready for the next one. -/
theorem exec_session (hi : isStreamSession i = true) (hset : bufSettled .stream s.buf = true)
    (hl : s.link ≠ .failed) (ho : s.ovf = false) (h : exec i s = .next t) :
    ParsedOn s (chunkBytes i) t ∧ t.link ≠ .failed ∧ t.ovf = false := by
  cases i with
  | reset | linkFail => exact absurd hi (by decide)
  | linkOpen =>
    rw [exec, execLinkOpen] at h
    split at h
    · cases h
      exact ⟨.of_no_chunk hset rfl (by simp [isReadout]), nofun, ho⟩
    · cases h
      exact ⟨.of_no_chunk hset rfl rfl, hl, ho⟩
  | pushChunkCr c => simp [isStreamSession, chunkBytes] at hi
  | pushChunkStream c =>
    obtain ⟨hfailed, -⟩ | ⟨-, hovf, -⟩ | ⟨-, -, -, e⟩ | ⟨ha, -⟩ := pushFront_cases streamProcess c s
    · exact absurd hfailed hl
    · rw [ho] at hovf; cases hovf
    · cases e.symm.trans h
    · cases (exec_pushChunkStream ha).symm.trans h
      exact ⟨.parsed s c, hl, ho⟩
  | cmdQueryVersion | cmdSetReportingMode | cmdQueryData | cmdSetDeviceId | cmdSetPowerMode | cmdSetCycle =>
    exact exec_session_of_isCommand rfl hset hl ho h
  | cmdReserved tag arg => cases (execCmdReserved_of_link_ne_failed hl tag arg).symm.trans h
  | rspReadout | rspVersion | rspReportingMode | rspDeviceIdChanged | rspPowerMode | rspCycle | rspUnknown
  | strmReadout => cases hi

/-- A session that ends without a fault or a refusal parses all its chunks as one stream. -/
theorem execAll_session {is : List Instr} (his : ∀ i ∈ is, isStreamSession i = true)
    (hset : bufSettled .stream s.buf = true) (hl : s.link ≠ .failed) (ho : s.ovf = false)
    (h : execAll is s = .next t) : ParsedOn s (is.flatMap chunkBytes) t := by
  induction is generalizing s with
  | nil => cases h; exact .of_no_chunk hset rfl rfl
  | cons i is ih =>
    obtain ⟨hi, his⟩ := List.forall_mem_cons.mp his
    rw [execAll] at h
    cases hu : exec i s with
    | next u =>
      rw [hu] at h
      obtain ⟨hp, hlu, hou⟩ := exec_session hi hset hl ho hu
      exact hp.trans (ih his hp.settled hlu hou h)
    | fault r => rw [hu] at h; cases h
    | refused r => rw [hu] at h; cases h

end

/-- Settles O30: from an empty buffer a session parses the whole stream. -/
theorem streamReadoutsAreTheGreedyParse : Obligations.StreamReadoutsAreTheGreedyParse := by
  intro is s t his hbuf hl ho h
  have hp := execAll_session his (by rw [hbuf]; rfl) hl ho h
  have hev := hp.readouts
  rw [hbuf, List.nil_append] at hev
  exact ⟨_, greedyParse_streamParse _, hev⟩

end Sys2Proof.Machine
end

section
/-! ### O32: trimming the buffer (40_assembler.md R121)

Two buffers are of the same frames when every continuation extracts the same payloads from both. A buffer without a
marker is of the same frames as its trim (`sameFrames_trimBuf`), and every transaction takes states that differ in
two such buffers to states that again do (`exec_sameButFrames`). -/

namespace Sys2Proof.Machine

/-! ### Buffers of the same frames -/

/-- Whatever bytes follow, the same payloads are extracted. -/
def SameFrames (b b' : List Byte) : Prop := ∀ d, (streamParse (b ++ d)).1 = (streamParse (b' ++ d)).1

section
variable {b b' : List Byte}

theorem SameFrames.refl (b : List Byte) : SameFrames b b := fun _ => rfl

/-- What is left after more bytes is again of the same frames. -/
theorem SameFrames.after (h : SameFrames b b') (c : List Byte) :
    SameFrames (streamParse (b ++ c)).2 (streamParse (b' ++ c)).2 := by
  intro d
  have hcd := h (c ++ d)
  rw [← List.append_assoc, ← List.append_assoc, streamParse_append (b ++ c), streamParse_append (b' ++ c),
    h c] at hcd
  exact List.append_cancel_left hcd

theorem noMarker_cons {a : Byte} {l : List Byte} (h : ¬(a = 0xAA ∧ l.head? = some 0xC0)) (hl : NoMarker l) :
    NoMarker (a :: l) := by
  cases l with
  | nil => exact noMarker_singleton a
  | cons c l => exact (noMarker_cons_cons a c l).mpr ⟨by simpa using h, hl⟩

theorem beforeFirstMarker_cons {a : Byte} {pre post : List Byte}
    (h : ¬(a = 0xAA ∧ (pre ++ 0xAA :: post).head? = some 0xC0)) (hpre : BeforeFirstMarker pre) :
    BeforeFirstMarker (a :: pre) := by
  refine noMarker_cons ?_ hpre
  cases pre with
  | nil => simp
  | cons c pre => simpa using h

/-- A byte that begins no marker with the bytes after it changes nothing of what is extracted from them. -/
theorem streamParse_cons_fst {a : Byte} {l : List Byte} (h : ¬(a = 0xAA ∧ l.head? = some 0xC0)) :
    (streamParse (a :: l)).1 = (streamParse l).1 := by
  obtain hno | ⟨pre, post, rfl, hpre, hlen⟩ | ⟨pre, p, rest, rfl, hpre, hlen⟩ := stream_forms l
  · rw [streamParse_noMarker l hno, streamParse_noMarker (a :: l) (noMarker_cons h hno)]
  · rw [streamParse_partial pre post hpre hlen]
    exact congrArg Prod.fst (streamParse_partial (a :: pre) post (beforeFirstMarker_cons h hpre) hlen)
  · rw [streamParse_frame pre p rest hpre hlen]
    exact congrArg Prod.fst (streamParse_frame (a :: pre) p rest (beforeFirstMarker_cons h hpre) hlen)

/-- Byte by byte: all but a last `0xAA` can be dropped, since none of them begins a marker. -/
theorem sameFrames_trimBuf (h : NoMarker b) : SameFrames b (trimBuf b) := by
  induction b with
  | nil => exact .refl []
  | cons a l ih =>
    intro d
    cases l with
    | nil =>
      by_cases ha : a = 0xAA
      · subst ha; rfl
      · have htrim : trimBuf [a] = [] := by simpa [trimBuf] using ha
        rw [htrim]
        exact streamParse_cons_fst fun hm => ha hm.1
    | cons c l =>
      obtain ⟨hac, hl⟩ := (noMarker_cons_cons a c l).mp h
      have htrim : trimBuf (a :: c :: l) = trimBuf (c :: l) := by simp [trimBuf]
      rw [htrim]
      exact (streamParse_cons_fst (by simpa using hac)).trans (ih hl d)

end

/-! ### States that differ in such buffers -/

/-- The states differ at most in the buffer, in two buffers of the same frames, and their capacity is infinite. -/
def SameButFrames (s s' : State) : Prop :=
  ∃ b, s' = s.setBuf b ∧ SameFrames s.buf b ∧ s.cfg.bufCap = none

/-- Both runs leave a state, and the states differ as `SameButFrames` says. -/
def EndSameButFrames (x y : Option State) : Prop := ∃ t t', x = some t ∧ y = some t' ∧ SameButFrames t t'

section
variable {s s' : State} {f g : State → StepOutcome}

/-- From `s`, `f` leaves a state whatever the buffer holds, and neither reads nor writes it. -/
def BufBlind (f : State → StepOutcome) (s : State) : Prop :=
  ∃ t, afterStep (f s) = some t ∧ t.buf = s.buf ∧ t.cfg = s.cfg ∧
    ∀ b, afterStep (f (s.setBuf b)) = some (t.setBuf b)

theorem BufBlind.ite (p : Link → Prop) [DecidablePred p] (hf : BufBlind f s) (hg : BufBlind g s) :
    BufBlind (fun u => if p u.link then f u else g u) s := by
  by_cases h : p s.link
  · simpa [BufBlind, h] using hf
  · simpa [BufBlind, h] using hg

theorem BufBlind.end_sameButFrames (hf : BufBlind f s) (h : SameButFrames s s') :
    EndSameButFrames (afterStep (f s)) (afterStep (f s')) := by
  obtain ⟨b, rfl, hb, hcap⟩ := h
  obtain ⟨t, ht, hbuf, hcfg, hblind⟩ := hf
  exact ⟨t, t.setBuf b, ht, hblind b, b, rfl, hbuf ▸ hb, hcfg ▸ hcap⟩

theorem bufBlind_next (s : State) : BufBlind .next s := ⟨s, rfl, rfl, rfl, fun _ => rfl⟩

theorem execLinkOpen_bufBlind (s : State) : BufBlind execLinkOpen s :=
  .ite (· = .init) ⟨_, rfl, rfl, rfl, fun _ => rfl⟩ (bufBlind_next s)

theorem execLinkFail_bufBlind (s : State) : BufBlind execLinkFail s :=
  .ite (· ≠ .failed) ⟨_, rfl, rfl, rfl, fun _ => rfl⟩ (bufBlind_next s)

theorem encodeFront_bufBlind (body : List Byte) (s : State) : BufBlind (encodeFront body) s :=
  .ite (· = .failed) (bufBlind_next s) ⟨_, rfl, rfl, rfl, fun _ => rfl⟩

theorem execCmdReserved_bufBlind (tag : BitVec 3) (arg : Half) (s : State) : BufBlind (execCmdReserved tag arg) s :=
  .ite (· = .failed) (bufBlind_next s) ⟨_, rfl, rfl, rfl, fun _ => rfl⟩

/-- With an infinite capacity the front end never faults. -/
theorem pushFront_infinite (hcap : s.cfg.bufCap = none) (process : State → StepOutcome) (c : List Byte) :
    pushFront process c s =
      if s.link = .failed ∨ s.ovf = true then .next s else process (s.setBuf (s.buf ++ c)) := by
  obtain ⟨hl, e⟩ | ⟨-, ho, e⟩ | ⟨-, -, hc, -⟩ | ⟨⟨hl, ho, -⟩, e⟩ := pushFront_cases process c s
  · rw [e, if_pos (.inl hl)]
  · rw [e, if_pos (.inr ho)]
  · rw [fitsCap_infinite hcap] at hc; cases hc
  · rw [e, if_neg (by simp [hl, ho])]

/-- A chunk is ignored in both states, or extracts the same payloads in both. -/
theorem execPushChunkStream_sameButFrames (c : List Byte) (h : SameButFrames s s') :
    EndSameButFrames (afterStep (execPushChunkStream c s)) (afterStep (execPushChunkStream c s')) := by
  obtain ⟨b, rfl, hb, hcap⟩ := h
  rw [execPushChunkStream, execPushChunkStream, pushFront_infinite hcap, pushFront_infinite (s := s.setBuf b) hcap]
  by_cases hign : s.link = .failed ∨ s.ovf = true
  · rw [if_pos hign, if_pos (by exact hign)]
    exact ⟨s, s.setBuf b, rfl, rfl, b, rfl, hb, hcap⟩
  · rw [if_neg hign, if_neg (by exact hign), streamProcess_eq, streamProcess_eq]
    refine ⟨_, _, rfl, rfl, (streamParse (b ++ c)).2, ?_, hb.after c, hcap⟩
    simp [State.setBuf, hb c]

theorem exec_sameButFrames {i : Instr} (hi : isStreamTransaction i = true) (h : SameButFrames s s') :
    EndSameButFrames (afterStep (exec i s)) (afterStep (exec i s')) := by
  cases i with
  | reset =>
    obtain ⟨b, rfl, -, hcap⟩ := h
    exact ⟨s.resetBlock, s.resetBlock, rfl, rfl, [], rfl, .refl [], hcap⟩
  | linkOpen => exact (execLinkOpen_bufBlind s).end_sameButFrames h
  | linkFail => exact (execLinkFail_bufBlind s).end_sameButFrames h
  | pushChunkCr c => simp [isStreamTransaction, chunkBytes] at hi
  | pushChunkStream c => exact execPushChunkStream_sameButFrames c h
  | cmdQueryVersion | cmdSetReportingMode | cmdQueryData | cmdSetDeviceId | cmdSetPowerMode | cmdSetCycle =>
    exact (encodeFront_bufBlind _ s).end_sameButFrames h
  | cmdReserved tag arg => exact (execCmdReserved_bufBlind tag arg s).end_sameButFrames h
  | rspReadout | rspVersion | rspReportingMode | rspDeviceIdChanged | rspPowerMode | rspCycle | rspUnknown
  | strmReadout => cases hi

theorem afterAll_sameButFrames {is : List Instr} (his : ∀ i ∈ is, isStreamTransaction i = true)
    (h : SameButFrames s s') : EndSameButFrames (afterAll is s) (afterAll is s') := by
  induction is generalizing s s' with
  | nil => exact ⟨s, s', rfl, rfl, h⟩
  | cons i is ih =>
    obtain ⟨hi, his⟩ := List.forall_mem_cons.mp his
    obtain ⟨t, t', ht, ht', hsame⟩ := exec_sameButFrames hi h
    rw [afterAll, afterAll, ht, ht']
    exact ih his hsame

end

/-- Settles O32: the trimmed buffer is of the same frames, and so the two runs end. -/
theorem streamTrimKeepsEvents : Obligations.StreamTrimKeepsEvents := by
  intro s is hno hcap his
  have hstart : SameButFrames s (s.setBuf (trimBuf s.buf)) := ⟨_, rfl, sameFrames_trimBuf hno, hcap⟩
  obtain ⟨t, _, ht, ht', b, rfl, -⟩ := afterAll_sameButFrames his hstart
  exact ⟨t, b, ht, ht'⟩

end Sys2Proof.Machine
end

section
/-! ### O33, O36: the effect of each decoder row (41_decoder.md R132 to R138, R142, R147)

One rule a row: the event it emits, which is all it writes. -/

namespace Sys2Proof.Machine

section
variable (s : State)

theorem exec_rspReadout (a b c d i j : Byte) : exec (.rspReadout a b c d i j) s =
    .next (s.emit (.response (.readout (u16le a b) (u16le c d) (devid i j) s.timestamp))) := rfl

theorem exec_rspVersion (y m d i j : Byte) :
    exec (.rspVersion y m d i j) s = .next (s.emit (.response (.version y m d (devid i j)))) := rfl

theorem exec_rspReportingMode (v : Byte) :
    exec (.rspReportingMode v) s = .next (s.emit (.response (.reportingMode (decide (v = 0))))) := rfl

theorem exec_rspDeviceIdChanged (i j : Byte) :
    exec (.rspDeviceIdChanged i j) s = .next (s.emit (.response (.deviceIdChanged (devid i j)))) := rfl

theorem exec_rspPowerMode (v : Byte) :
    exec (.rspPowerMode v) s = .next (s.emit (.response (.powerMode (decide (v = 0))))) := rfl

theorem exec_rspCycle (v : Byte) : exec (.rspCycle v) s = .next (s.emit (.response (.cycle v))) := rfl

theorem exec_rspUnknown (f : List Byte) : exec (.rspUnknown f) s = .next (s.emit (.response (.unknown f))) := rfl

theorem exec_strmReadout (a b c d : Byte) : exec (.strmReadout a b c d) s =
    .next (s.emit (.readout (u16le a b) (u16le c d) (grade10 (u16le a b)) (grade25 (u16le c d)))) := rfl

end

/-- Settles O33, row by row. -/
theorem responseRowsEmitTheirResponse : Obligations.ResponseRowsEmitTheirResponse := fun s =>
  ⟨exec_rspReadout s, exec_rspVersion s, exec_rspReportingMode s, exec_rspDeviceIdChanged s, exec_rspPowerMode s,
    exec_rspCycle s, exec_rspUnknown s⟩

/-- Settles O36; the frame decoder reads four bytes of the payload, whatever the other four are. -/
theorem streamReadoutEmits : Obligations.StreamReadoutEmits := fun s a b c d =>
  ⟨u16le a b, u16le c d, u16le_toNat a b, u16le_toNat c d, exec_strmReadout s a b c d, fun _ _ _ _ => rfl⟩

end Sys2Proof.Machine
end

section
/-! ### O34: the response of a candidate (41_decoder.md R131 to R138) -/

namespace Sys2Proof.Machine

/-- Settles O34: the candidate selects its row by `responseMapSelectsRow`, and the row emits its response. -/
theorem decodedCandidateEmits : Obligations.DecodedCandidateEmits := by
  intro s f hL
  obtain ⟨hreadout, hversion, hreporting, hdeviceId, hpower, hcycle, hunknown⟩ := responseMapSelectsRow f hL
  refine ⟨fun h1 hl => ?_, fun h1 h2 hl => ?_, fun h1 h2 => ?_, fun h1 h2 hl => ?_, fun h1 h2 => ?_,
    fun h1 h2 => ?_, fun hC0 hC5 => ?_⟩
  · rw [hreadout h1 hl]
    exact ⟨u16le f[2] f[3], u16le f[4] f[5], devid f[6] f[7], u16le_toNat .., u16le_toNat .., devid_toNat ..,
      exec_rspReadout ..⟩
  · rw [hversion h1 h2 hl]
    exact ⟨devid f[6] f[7], devid_toNat .., exec_rspVersion ..⟩
  · rw [hreporting h1 h2]
    exact exec_rspReportingMode ..
  · rw [hdeviceId h1 h2 hl]
    exact ⟨devid f[6] f[7], devid_toNat .., exec_rspDeviceIdChanged ..⟩
  · rw [hpower h1 h2]
    exact exec_rspPowerMode ..
  · rw [hcycle h1 h2]
    exact exec_rspCycle ..
  · have hrow : decodeCandidate f = .rspUnknown f := hunknown hC0
      (fun ⟨h1, h2, hl⟩ => hC5 ⟨h1, .inr (.inr (.inr ⟨.inr h2, hl⟩))⟩)
      (fun ⟨h1, h2⟩ => hC5 ⟨h1, .inl h2⟩)
      (fun ⟨h1, h2, hl⟩ => hC5 ⟨h1, .inr (.inr (.inr ⟨.inl h2, hl⟩))⟩)
      (fun ⟨h1, h2⟩ => hC5 ⟨h1, .inr (.inl h2)⟩)
      (fun ⟨h1, h2⟩ => hC5 ⟨h1, .inr (.inr (.inl h2))⟩)
    rw [hrow]
    exact exec_rspUnknown ..

end Sys2Proof.Machine
end

section
/-! ### O35: the decoder is total (41_decoder.md R130) -/

namespace Sys2Proof.Machine

/-- Settles O35: the frame decoder agrees with the synchronizer's tests, and any row emits one response. -/
theorem decoderIsTotal : Obligations.DecoderIsTotal :=
  fun f s hf => ⟨decodeRsp_of_candidateOk hf, exec_decodeCandidate f s⟩

end Sys2Proof.Machine
end

section
/-! ### O37, O38: the grades (41_decoder.md R143 to R145) -/

namespace Sys2Proof.Machine

theorem gradeIn_nil (raw : Half) : (gradeIn [] raw).val = 0 := rfl

/-- A value below the first bound is in band 0; any other is graded by the remaining bounds, one band up. -/
theorem gradeIn_cons (b : Nat) (bs : List Nat) (raw : Half) :
    (gradeIn (b :: bs) raw).val = if raw.toNat < b then 0 else (gradeIn bs raw).val + 1 := by
  simp [gradeIn, List.findIdx_cons, cond_eq_ite]

/-- A bound that exceeds the larger value exceeds the smaller one, so the smaller value's band comes no later. The
bounds need not be sorted. -/
theorem gradeIn_mono (bounds : List Nat) {a b : Half} (hab : a.toNat ≤ b.toNat) :
    (gradeIn bounds a).val ≤ (gradeIn bounds b).val := by
  refine List.findIdx_le_findIdx fun bound _ hb => ?_
  exact decide_eq_true (hab.trans_lt (of_decide_eq_true hb))

/-- Settles O38: monotone for any list of bounds. -/
theorem gradesAreMonotone : Obligations.GradesAreMonotone :=
  fun _ _ hab => ⟨gradeIn_mono bounds10 hab, gradeIn_mono bounds25 hab⟩

/-- Five bounds, each written as the last value of its band plus one. -/
theorem gradeIn_five_bands (m₀ m₁ m₂ m₃ m₄ : Nat) (raw : Half) :
    (gradeIn [m₀ + 1, m₁ + 1, m₂ + 1, m₃ + 1, m₄ + 1] raw).val =
      if raw.toNat ≤ m₀ then 0 else if raw.toNat ≤ m₁ then 1 else if raw.toNat ≤ m₂ then 2
      else if raw.toNat ≤ m₃ then 3 else if raw.toNat ≤ m₄ then 4 else 5 := by
  simp only [gradeIn_cons, gradeIn_nil, Nat.lt_succ_iff]
  simp only [apply_ite (· + 1)]

/-- Settles O37: both grades are five-band tables, `GRADE10` with the ends 199 to 1999, `GRADE25` with 119 to 1199. -/
theorem gradeTables : Obligations.GradeTables := fun raw =>
  ⟨gradeIn_five_bands 199 599 999 1399 1999 raw, gradeIn_five_bands 119 359 599 839 1199 raw⟩

end Sys2Proof.Machine
end

section
/-! ### What ENCODE transmits (42_encoder.md R160 to R168)

Each of the six commands runs the front end of ENCODE on the template `cmdBody`, so the bytes of every frame are those
of `cmdFrame_cmdBody`. -/

namespace Sys2Proof.Machine

/-! ### The front end -/

section
variable {s : State}

theorem encodeFront_of_link_failed (hl : s.link = .failed) (body : List Byte) : encodeFront body s = .next s :=
  if_pos hl

theorem encodeFront_of_link_ne_failed (hl : s.link ≠ .failed) (body : List Byte) :
    encodeFront body s = .next (s.transmit (cmdFrame body)) :=
  if_neg hl

/-- An ENCODE of a reserved tag in `FAILED` (R160, R192). -/
theorem execCmdReserved_of_link_failed (hl : s.link = .failed) (tag : BitVec 3) (arg : Half) :
    execCmdReserved tag arg s = .next s :=
  if_pos hl

end

/-- Whatever the state, a command runs the front end on a body of the template, with the fields it sets (R162). -/
theorem isCommand_cmdBody {i : Instr} (hi : isCommand i = true) :
    ∃ subtype select value id1 id2, ∀ s, exec i s = encodeFront (cmdBody subtype select value id1 id2) s := by
  cases i with
  | cmdQueryVersion | cmdSetReportingMode | cmdQueryData | cmdSetDeviceId | cmdSetPowerMode | cmdSetCycle =>
    exact ⟨_, _, _, _, _, fun _ => rfl⟩
  | _ => cases hi

/-! ### The bytes of a frame -/

theorem sum8_cmdBody (subtype select value id1 id2 : Byte) : sum8 (cmdBody subtype select value id1 id2) =
    BitVec.ofNat 8 (0xB4 + subtype.toNat + select.toNat + value.toNat + id1.toNat + id2.toNat) := by
  simp [sum8, cmdBody, Nat.add_assoc]

/-- The frame of the template, byte by byte (R64, R161). -/
theorem cmdFrame_cmdBody (subtype select value id1 id2 : Byte) : cmdFrame (cmdBody subtype select value id1 id2) =
    [0xAA, 0xB4, subtype, select, value, 0, 0, 0, 0, 0, 0, 0, 0, id1, id2,
      BitVec.ofNat 8 (0xB4 + subtype.toNat + select.toNat + value.toNat + id1.toNat + id2.toNat), 0xAB] := by
  rw [cmdFrame, sum8_cmdBody]
  rfl

end Sys2Proof.Machine
end

section
/-! ### O39 to O42, O47: the frame of each command (42_encoder.md R163 to R168, R170, R173) -/

namespace Sys2Proof.Machine

/-- The low byte of a number does not depend on the bits above it (R170). -/
theorem ofNat_mod_byte (n : Nat) : BitVec.ofNat 8 (n % 256) = BitVec.ofNat 8 n := by
  apply BitVec.eq_of_toNat_eq
  simp

/-- The frame of SetDeviceId: `0xB4 + 0x05` and the two bytes of the identifier make up the checksum. -/
theorem cmdFrame_bodySetDeviceId (id : Half) : cmdFrame (bodySetDeviceId id) =
    [0xAA, 0xB4, 0x05, 0, 0, 0, 0, 0, 0, 0, 0, 0, 0,
      BitVec.ofNat 8 (id.toNat / 256), BitVec.ofNat 8 (id.toNat % 256),
      BitVec.ofNat 8 (0xB9 + id.toNat / 256 + id.toNat % 256), 0xAB] := by
  rw [bodySetDeviceId, cmdFrame_cmdBody, hiByte_toNat, loByte_toNat, ofNat_mod_byte]
  rfl

/-- The frame of SetCycle: `0xB4 + 0x08 + 0x01` and the value byte make up the checksum. -/
theorem cmdFrame_bodySetCycle (n : Nat) : cmdFrame (bodySetCycle n) =
    [0xAA, 0xB4, 0x08, 0x01, BitVec.ofNat 8 (n % 256), 0, 0, 0, 0, 0, 0, 0, 0, 0, 0,
      BitVec.ofNat 8 (0xBD + n % 256), 0xAB] := by
  rw [bodySetCycle, cmdFrame_cmdBody, BitVec.toNat_ofNat, ofNat_mod_byte]
  rfl

/-- Settles O41: the front end transmits `cmdFrame_bodySetDeviceId`. -/
theorem setDeviceIdFrame : Obligations.SetDeviceIdFrame := by
  intro s id hl
  refine ⟨?_, rfl⟩
  rw [← cmdFrame_bodySetDeviceId]
  exact encodeFront_of_link_ne_failed hl (bodySetDeviceId id)

/-- Settles O42: the front end transmits `cmdFrame_bodySetCycle`; the port's value is the low byte of its argument. -/
theorem setCycleFrame : Obligations.SetCycleFrame := by
  intro s n hl
  refine ⟨?_, fun arg => congrArg Instr.cmdSetCycle (loByte_toNat arg)⟩
  rw [← cmdFrame_bodySetCycle]
  exact encodeFront_of_link_ne_failed hl (bodySetCycle n)

/-- Settles O39: both bodies are constant, so their frames evaluate. -/
theorem queryCommandFrames : Obligations.QueryCommandFrames := fun _ hl =>
  ⟨encodeFront_of_link_ne_failed hl bodyQueryVersion, encodeFront_of_link_ne_failed hl bodyQueryData,
    fun _ => ⟨rfl, rfl⟩⟩

/-- Settles O40: each mode command has one constant body for either value of its flag. -/
theorem modeCommandFrames : Obligations.ModeCommandFrames := fun _ hl =>
  ⟨encodeFront_of_link_ne_failed hl (bodySetReportingMode true),
    encodeFront_of_link_ne_failed hl (bodySetReportingMode false),
    encodeFront_of_link_ne_failed hl (bodySetPowerMode true),
    encodeFront_of_link_ne_failed hl (bodySetPowerMode false), fun _ => ⟨rfl, rfl⟩⟩

/-- Settles O47: the value byte of SetCycle is its number truncated to 8 bits; the rest evaluates. -/
theorem bodyValueBytes : Obligations.BodyValueBytes :=
  ⟨fun n => BitVec.toNat_ofNat n 8, rfl, rfl, rfl⟩

end Sys2Proof.Machine
end

section
/-! ### O43: one frame a command (42_encoder.md R160, R161) -/

namespace Sys2Proof.Machine

/-- The checksum byte of a body (R161). -/
theorem sum8_eq_ofNat_mod (b : List Byte) : sum8 b = BitVec.ofNat 8 ((b.map BitVec.toNat).sum % 256) :=
  (ofNat_mod_byte _).symm

/-- Settles O43: the body is the command's template in its frame. -/
theorem commandTransmitsOneFrame : Obligations.CommandTransmitsOneFrame := by
  intro s i hi hl
  obtain ⟨subtype, select, value, id1, id2, he⟩ := isCommand_cmdBody hi
  refine ⟨cmdBody subtype select value id1 id2, rfl, rfl, ?_⟩
  rw [he, ← sum8_eq_ofNat_mod]
  exact encodeFront_of_link_ne_failed hl _

end Sys2Proof.Machine
end

section
/-! ### O44: a reserved tag (42_encoder.md R160, R169, 60_exceptions.md R205) -/

namespace Sys2Proof.Machine

/-- Settles O44: the two ends of an ENCODE of a reserved tag, by `LINK`, and the port map of tags 6 and 7. -/
theorem reservedTagIsRefused : Obligations.ReservedTagIsRefused := fun _ tag arg =>
  ⟨fun hl => execCmdReserved_of_link_ne_failed hl tag arg, fun hl => execCmdReserved_of_link_failed hl tag arg,
    decodeCmdPort_reserved (.inl rfl) arg, decodeCmdPort_reserved (.inr rfl) arg⟩

end Sys2Proof.Machine
end

section
/-! ### O45: what the encoder reads and writes (42_encoder.md R171) -/

namespace Sys2Proof.Machine

/-- What ENCODE of a body appends to `TXQ` at a link state: nothing in `FAILED`, else its frame (R160). -/
def encodedBytes (l : Link) (body : List Byte) : List Byte := if l = .failed then [] else cmdFrame body

/-- The front end in one equation: the bytes it appends are a function of `LINK` and the body. -/
theorem encodeFront_eq_transmit (body : List Byte) (s : State) :
    encodeFront body s = .next (s.transmit (encodedBytes s.link body)) := by
  by_cases hl : s.link = .failed
  · rw [encodeFront_of_link_failed hl, encodedBytes, if_pos hl, State.transmit, List.append_nil]
  · rw [encodeFront_of_link_ne_failed hl, encodedBytes, if_neg hl]

/-- A reserved tag sets `ILLEGAL_CMD` exactly outside `FAILED`, and writes nothing else. -/
theorem afterStep_execCmdReserved (tag : BitVec 3) (arg : Half) (s : State) :
    afterStep (execCmdReserved tag arg s) =
      some { s with illegalCmd := s.illegalCmd || decide (s.link ≠ .failed) } := by
  by_cases hl : s.link = .failed
  · rw [execCmdReserved_of_link_failed hl, decide_eq_false (not_not.mpr hl), Bool.or_false, afterStep]
  · rw [execCmdReserved_of_link_ne_failed hl, decide_eq_true hl, Bool.or_true, afterStep, State.setIllegalCmd]

/-- Settles O45: in both clauses what is written is a function of `LINK`. -/
theorem encoderReadsOnlyLink : Obligations.EncoderReadsOnlyLink := by
  refine ⟨fun i s u hi hlink => ?_, fun tag arg s u hlink => ?_⟩
  · obtain ⟨subtype, select, value, id1, id2, he⟩ := isCommand_cmdBody hi
    refine ⟨encodedBytes s.link (cmdBody subtype select value id1 id2), ?_, ?_⟩
    · exact (he s).trans (encodeFront_eq_transmit _ s)
    · rw [hlink]
      exact (he u).trans (encodeFront_eq_transmit _ u)
  · refine ⟨decide (s.link ≠ .failed), afterStep_execCmdReserved tag arg s, ?_⟩
    rw [hlink]
    exact afterStep_execCmdReserved tag arg u

end Sys2Proof.Machine
end

section
/-! ### O46: the echo of a frame (42_encoder.md R172) -/

namespace Sys2Proof.Machine

/-- A body between the markers with its sum is a candidate the synchronizer accepts (R104, R105, R161). -/
theorem candidateOk_cmdFrame {body : List Byte} (h : 2 ≤ body.length) : candidateOk (cmdFrame body) = true :=
  candidateOk_rspFrame body h

/-- The command-group byte 0xB4 is the first byte of no row of the response map (R131). -/
theorem rspRow_of_commandGroup {f : List Byte} (h : byteAt f 1 = 0xB4) : rspRow f = .unknown := by
  simp [rspRow, h]

/-- Settles O46: the frame is a candidate of no other row, and with an empty buffer the chunk is the candidate. -/
theorem echoDecodesAsUnknown : Obligations.EchoDecodesAsUnknown := by
  intro i s u hi hl hbuf ha
  obtain ⟨subtype, select, value, id1, id2, he⟩ := isCommand_cmdBody hi
  have hcand : u.buf ++ cmdFrame (cmdBody subtype select value id1 id2) =
      cmdFrame (cmdBody subtype select value id1 id2) := by rw [hbuf, List.nil_append]
  have hok := candidateOk_cmdFrame (body := cmdBody subtype select value id1 id2) (by simp)
  refine ⟨cmdFrame (cmdBody subtype select value id1 id2), ?_, rfl, ?_⟩
  · exact (he s).trans (encodeFront_of_link_ne_failed hl _)
  · rw [exec_pushChunkCr_decoded ha (hcand.symm ▸ hok), hcand, decodeCandidate_unknown (rspRow_of_commandGroup rfl),
      State.setBuf_of_buf_eq hbuf]
    exact exec_rspUnknown u _

end Sys2Proof.Machine
end

section
/-! ### O13: LINK_OPEN, and chunks and commands before it (43_link.md R190)

`LinkBlind` says that a run ends alike at two link states but for the link itself. The front ends of PUSH_CHUNK and
ENCODE tell `FAILED` from the other two link states only, and what runs behind them does not read `LINK` at all. -/

namespace Sys2Proof.Machine

/-- From `s`, `run` does the very same at the link state `l`, and leaves that link state. -/
def LinkBlind (run : State → StepOutcome) (s : State) (l : Link) : Prop :=
  afterStep (run (s.setLink l)) = (afterStep (run s)).map (·.setLink l)

section
variable {s : State} {l : Link}

/-! ### LINK_OPEN -/

theorem execLinkOpen_of_link_init (hl : s.link = .init) :
    execLinkOpen s = .next ((s.setLink .ready).emit .ready) :=
  if_pos hl

theorem execLinkOpen_of_link_ne_init (hl : s.link ≠ .init) : execLinkOpen s = .next s := if_neg hl

/-! ### What runs behind the front ends -/

theorem runResponse_linkBlind (f : List Byte) (s : State) (l : Link) : LinkBlind (runResponse f) s l := by
  unfold LinkBlind runResponse
  cases rspRow f <;> rfl

/-- `CR_PROCESS` decides by the buffer alone. -/
theorem crProcess_linkBlind (s : State) (l : Link) : LinkBlind crProcess s l := by
  rw [LinkBlind, crProcess_eq, crProcess_eq, State.setLink_buf]
  split_ifs
  · rfl
  · exact runResponse_linkBlind s.buf (s.setBuf []) l
  · rfl

theorem streamProcess_linkBlind (s : State) (l : Link) : LinkBlind streamProcess s l := by
  rw [LinkBlind, streamProcess_eq, streamProcess_eq]
  rfl

/-! ### The front ends outside `FAILED` -/

/-- A chunk is ignored, faults or is let in alike at both link states. -/
theorem pushFront_linkBlind {process : State → StepOutcome} (hp : ∀ u, LinkBlind process u l) (hs : s.link ≠ .failed)
    (hl : l ≠ .failed) (c : List Byte) : LinkBlind (pushFront process c) s l := by
  obtain ⟨hfailed, -⟩ | ⟨-, ho, e⟩ | ⟨-, ho, hc, e⟩ | ⟨⟨-, ho, hc⟩, e⟩ := pushFront_cases process c s
  · exact absurd hfailed hs
  · rw [LinkBlind, e, pushFront_of_ovf (s := s.setLink l) ho]
    rfl
  · rw [LinkBlind, e, pushFront_overflow (s := s.setLink l) hl ho hc]
    rfl
  · rw [LinkBlind, e, pushFront_accepts process c (s.setLink l) ⟨hl, ho, hc⟩]
    exact hp (s.setBuf (s.buf ++ c))

theorem encodeFront_linkBlind (hs : s.link ≠ .failed) (hl : l ≠ .failed) (body : List Byte) :
    LinkBlind (encodeFront body) s l := by
  rw [LinkBlind, encodeFront_of_link_ne_failed hs, encodeFront_of_link_ne_failed (s := s.setLink l) hl]
  rfl

/-- A chunk in either mode and each of the six commands end alike at any two link states other than `FAILED`. -/
theorem exec_linkBlind {i : Instr}
    (hi : i = .pushChunkCr (chunkBytes i) ∨ i = .pushChunkStream (chunkBytes i) ∨ isCommand i = true)
    (hs : s.link ≠ .failed) (hl : l ≠ .failed) : LinkBlind (exec i) s l := by
  obtain hcr | hstream | hcmd := hi
  · rw [hcr]
    exact pushFront_linkBlind (crProcess_linkBlind · l) hs hl _
  · rw [hstream]
    exact pushFront_linkBlind (streamProcess_linkBlind · l) hs hl _
  · obtain ⟨body, he, -⟩ := isCommand_encodes hcmd
    rw [funext he]
    exact encodeFront_linkBlind hs hl body

end

/-- Settles O13: LINK_OPEN by `LINK`, and `exec_linkBlind` from `READY` to `INIT`. -/
theorem linkOpenEffect : Obligations.LinkOpenEffect :=
  ⟨fun _ => ⟨execLinkOpen_of_link_init, execLinkOpen_of_link_ne_init⟩,
    fun s _ hi => exec_linkBlind (s := s.setLink .ready) (l := .init) hi nofun nofun⟩

end Sys2Proof.Machine
end

section
/-! ### O14: LINK_FAIL (43_link.md R191) -/

namespace Sys2Proof.Machine

section
variable {s : State}

theorem execLinkFail_of_link_ne_failed (hl : s.link ≠ .failed) :
    execLinkFail s = .next ((s.setLink .failed).emit (.error .linkFail)) :=
  if_pos hl

theorem execLinkFail_of_link_failed (hl : s.link = .failed) : execLinkFail s = .next s := if_neg (not_not.mpr hl)

end

/-- Settles O14: the two ends of LINK_FAIL, by `LINK`, and the code of what it reports. -/
theorem linkFailEffect : Obligations.LinkFailEffect := fun _ =>
  ⟨execLinkFail_of_link_ne_failed, execLinkFail_of_link_failed, rfl⟩

end Sys2Proof.Machine
end

section
/-! ### O15: the terminal link state (43_link.md R192) -/

namespace Sys2Proof.Machine

section
variable {s : State}

/-- A chunk in `FAILED` (R100). -/
theorem pushFront_of_link_failed (hl : s.link = .failed) (process : State → StepOutcome) (c : List Byte) :
    pushFront process c s = .next s :=
  if_pos hl

/-- In `FAILED` every host transaction but RESET is ignored. -/
theorem exec_of_link_failed {i : Instr} (hl : s.link = .failed) (hi : isTransaction i = true) (hne : i ≠ .reset) :
    exec i s = .next s := by
  cases i with
  | reset => exact absurd rfl hne
  | linkOpen => exact execLinkOpen_of_link_ne_init (by simp [hl])
  | linkFail => exact execLinkFail_of_link_failed hl
  | pushChunkCr | pushChunkStream => exact pushFront_of_link_failed hl _ _
  | cmdQueryVersion | cmdSetReportingMode | cmdQueryData | cmdSetDeviceId | cmdSetPowerMode | cmdSetCycle =>
    exact encodeFront_of_link_failed hl _
  | cmdReserved tag arg => exact execCmdReserved_of_link_failed hl tag arg
  | rspReadout | rspVersion | rspReportingMode | rspDeviceIdChanged | rspPowerMode | rspCycle | rspUnknown
  | strmReadout => cases hi

/-- A step in `FAILED` whose cycle does not strobe RESET writes no more than taking a transaction from the ports does:
a transaction that is run comes from the ports and is not RESET. -/
theorem step_of_link_failed (hl : s.link = .failed) (hrst : ∀ p ps, s.inputs = p :: ps → p.rst = false) :
    ∃ now inputs evtTaken txTaken,
      step s = .next { s with now := now, inputs := inputs, evtTaken := evtTaken, txTaken := txTaken } := by
  obtain ⟨-, e⟩ | ⟨p, ps, -, -, e⟩ | ⟨p, ps, -, -, -, e⟩ | ⟨p, ps, i, p', hin, hn, -, e⟩ := step_cases s
  · exact ⟨_, _, _, _, e⟩
  · exact ⟨_, _, _, _, e⟩
  · exact ⟨_, _, _, _, e⟩
  · have hne : i ≠ .reset := by
      rintro rfl
      simpa [hrst p ps hin] using rst_of_nextTxn_reset hn
    obtain ⟨hi, -⟩ := nextTxn_transaction _ _ _ _ hn
    exact ⟨_, _, _, _, e.trans (exec_of_link_failed hl hi hne)⟩

end

/-- Settles O15: the transactions in `FAILED`, RESET, which enters `INIT`, and the steps. -/
theorem failedIsTerminal : Obligations.FailedIsTerminal :=
  ⟨fun _ _ => exec_of_link_failed, fun _ _ => ⟨_, rfl, rfl⟩, fun _ => step_of_link_failed⟩

end Sys2Proof.Machine
end

section
/-! ### O56: faults and refusals (60_exceptions.md R200, R204, R205)

`exec_outcomes` says once how an instruction can end: it completes, or it is a PUSH_CHUNK that overflows, or it is an
ENCODE of a reserved tag outside `FAILED`. -/

namespace Sys2Proof.Machine

/-- A chunk of a mode whose algorithm always completes stops on an overflow only (R102, R206). -/
theorem pushFront_outcomes {process : State → StepOutcome} (hp : ∀ u, ∃ t, process u = .next t) (c : List Byte)
    (s : State) :
    (∃ t, pushFront process c s = .next t) ∨
      (fitsCap s.cfg (s.buf.length + c.length) = false ∧ s.ovf = false ∧ s.link ≠ .failed ∧
        pushFront process c s = .fault (.ovf s.setOvf)) := by
  obtain ⟨-, e⟩ | ⟨-, -, e⟩ | ⟨hl, ho, hc, e⟩ | ⟨-, e⟩ := pushFront_cases process c s
  · exact .inl ⟨_, e⟩
  · exact .inl ⟨_, e⟩
  · exact .inr ⟨hc, ho, hl, e⟩
  · exact .inl (e ▸ hp _)

/-- LINK_OPEN completes in every state (R190). -/
theorem execLinkOpen_next (s : State) : ∃ t, execLinkOpen s = .next t := by
  by_cases hl : s.link = .init
  · exact ⟨_, execLinkOpen_of_link_init hl⟩
  · exact ⟨_, execLinkOpen_of_link_ne_init hl⟩

/-- LINK_FAIL completes in every state (R191). -/
theorem execLinkFail_next (s : State) : ∃ t, execLinkFail s = .next t := by
  by_cases hl : s.link = .failed
  · exact ⟨_, execLinkFail_of_link_failed hl⟩
  · exact ⟨_, execLinkFail_of_link_ne_failed hl⟩

/-- How executing an instruction can end (R200). -/
theorem exec_outcomes (i : Instr) (s : State) :
    (∃ t, exec i s = .next t) ∨
    ((i = .pushChunkCr (chunkBytes i) ∨ i = .pushChunkStream (chunkBytes i)) ∧
      fitsCap s.cfg (s.buf.length + (chunkBytes i).length) = false ∧ s.ovf = false ∧ s.link ≠ .failed ∧
      exec i s = .fault (.ovf s.setOvf)) ∨
    ((∃ tag arg, i = .cmdReserved tag arg) ∧ s.link ≠ .failed ∧
      exec i s = .refused (.illegalCmd s.setIllegalCmd)) := by
  cases i with
  | reset => exact .inl ⟨_, rfl⟩
  | linkOpen => exact .inl (execLinkOpen_next s)
  | linkFail => exact .inl (execLinkFail_next s)
  | pushChunkCr c => exact (pushFront_outcomes crProcess_next c s).imp_right fun h => .inl ⟨.inl rfl, h⟩
  | pushChunkStream c => exact (pushFront_outcomes streamProcess_next c s).imp_right fun h => .inl ⟨.inr rfl, h⟩
  | cmdQueryVersion | cmdSetReportingMode | cmdQueryData | cmdSetDeviceId | cmdSetPowerMode | cmdSetCycle =>
    exact .inl ⟨_, encodeFront_eq_transmit _ s⟩
  | cmdReserved tag arg =>
    by_cases hl : s.link = .failed
    · exact .inl ⟨s, execCmdReserved_of_link_failed hl tag arg⟩
    · exact .inr (.inr ⟨⟨tag, arg, rfl⟩, hl, execCmdReserved_of_link_ne_failed hl tag arg⟩)
  | rspReadout | rspVersion | rspReportingMode | rspDeviceIdChanged | rspPowerMode | rspCycle | rspUnknown
  | strmReadout => exact .inl ⟨_, rfl⟩

/-- Settles O56: of the three ends in `exec_outcomes` one is a fault and one a refusal. -/
theorem onlyOverflowAndReservedTagsStop : Obligations.OnlyOverflowAndReservedTagsStop := by
  refine ⟨fun i s r h => ?_, fun i s r h => ?_⟩
  · obtain ⟨t, e⟩ | ⟨hi, hc, ho, hl, e⟩ | ⟨-, -, e⟩ := exec_outcomes i s <;> rw [e] at h <;> cases h
    exact ⟨hi, hc, ho, hl, rfl⟩
  · obtain ⟨t, e⟩ | ⟨-, -, -, -, e⟩ | ⟨hi, hl, e⟩ := exec_outcomes i s <;> rw [e] at h <;> cases h
    exact ⟨hi, hl, rfl⟩

end Sys2Proof.Machine
end

section
/-! ### O10: the order of the strobes and of the checks (60_exceptions.md R206)

One equation of `nextTxn` per strobe, each under the absence of those before it; the checks are the outcomes of the two
front ends. -/

namespace Sys2Proof.Machine

/-! ### The strobe that is taken -/

section
variable {p : PortCycle} (mode : FramingMode)

theorem nextTxn_of_rst (hr : p.rst = true) : nextTxn mode p = some (.reset, { p with rst := false }) :=
  if_pos hr

theorem nextTxn_of_linkFail (hr : p.rst = false) (hf : p.linkFail = true) :
    nextTxn mode p = some (.linkFail, { p with linkFail := false }) := by
  simp [nextTxn, hr, hf]

theorem nextTxn_of_linkOpen (hr : p.rst = false) (hf : p.linkFail = false) (ho : p.linkOpen = true) :
    nextTxn mode p = some (.linkOpen, { p with linkOpen := false }) := by
  simp [nextTxn, hr, hf, ho]

theorem nextTxn_of_rx {ch : RxChunk} (hr : p.rst = false) (hf : p.linkFail = false) (ho : p.linkOpen = false)
    (hx : p.rx = some ch) : nextTxn mode p = some (pushChunkRow mode ch.bytes, { p with rx := none }) := by
  simp [nextTxn, hr, hf, ho, hx]

theorem nextTxn_of_cmd {c : CmdPort} (hr : p.rst = false) (hf : p.linkFail = false) (ho : p.linkOpen = false)
    (hx : p.rx = none) (hc : p.cmd = some c) :
    nextTxn mode p = some (decodeCmdPort c.tag c.arg, { p with cmd := none }) := by
  simp [nextTxn, hr, hf, ho, hx, hc]

end

/-! ### The checks of a chunk -/

/-- What the front end alone decides, it decides alike in both modes. -/
theorem exec_pushChunk_of_pushFront {s : State} {c : List Byte} {o : StepOutcome}
    (h : ∀ process, pushFront process c s = o) :
    exec (.pushChunkCr c) s = o ∧ exec (.pushChunkStream c) s = o :=
  ⟨h crProcess, h streamProcess⟩

theorem candidateOk_of_markersOk_false {f : List Byte} (hm : markersOk f = false) : candidateOk f = false := by
  simp [candidateOk, hm]

/-- Settles O10: the strobes by the equations of `nextTxn`, a chunk by the outcomes of its front end in their order, a
candidate with bad markers by `exec_pushChunkCr_dropped`, a reserved tag by `LINK`. -/
theorem strobeAndCheckOrder : Obligations.StrobeAndCheckOrder :=
  ⟨fun mode _ => nextTxn_of_rst mode,
   fun mode _ => nextTxn_of_linkFail mode,
   fun mode _ => nextTxn_of_linkOpen mode,
   fun _ _ hr hf ho hx => ⟨nextTxn_of_rx .cr hr hf ho hx, nextTxn_of_rx .stream hr hf ho hx⟩,
   fun mode _ _ => nextTxn_of_cmd mode,
   fun _ c hl => exec_pushChunk_of_pushFront (pushFront_of_link_failed hl · c),
   fun _ _ _ ho => exec_pushChunk_of_pushFront fun _ => pushFront_of_ovf ho,
   fun _ _ hl ho hc => exec_pushChunk_of_pushFront fun _ => pushFront_overflow hl ho hc,
   fun _ _ ⟨_, _, hc⟩ => exec_pushChunk_next hc,
   fun _ _ ha hb hm _ => exec_pushChunkCr_dropped ha hb (candidateOk_of_markersOk_false hm),
   fun _ tag arg hl => execCmdReserved_of_link_failed hl tag arg,
   fun _ tag arg hl => execCmdReserved_of_link_ne_failed hl tag arg⟩

end Sys2Proof.Machine
end

section
/-! ### O9: outputs still offered hold the next transaction (70_reset_and_hazards.md R239; log 16) -/

namespace Sys2Proof.Machine

/-! ### The transaction that waits -/

/-- A cycle that strobes RESET presents RESET first (R206): the converse of `rst_of_nextTxn_reset`. -/
theorem rst_eq_false_of_nextTxn {mode : FramingMode} {p p' : PortCycle} {i : Instr}
    (hn : nextTxn mode p = some (i, p')) (hi : i ≠ .reset) : p.rst = false := by
  by_contra hr
  rw [nextTxn_of_rst mode (by simpa using hr)] at hn
  cases hn
  exact hi rfl

/-- The third of the things a step can do (`step_cases`), with its conditions. -/
theorem step_of_not_inReady {s : State} {p p' : PortCycle} {ps : List PortCycle} {i : Instr}
    (h : s.inputs = p :: ps) (hn : nextTxn s.cfg.framingMode p = some (i, p')) (hr : p.rst = false)
    (hw : (s.takeOutputs p).inReady = false) : step s = .next (s.takeOutputs p) := by
  simp [step, fetch, h, hn, hr, hw]

/-! ### What the output ports offer (R74) -/

section
variable (s : State)

theorem State.inReady_iff : s.inReady = true ↔ s.evtValid = false ∧ s.txValid = false := by
  simp [State.inReady]

theorem State.evtValid_iff_evtData : s.evtValid = true ↔ ∃ b, s.evtData = some b := by
  simp [State.evtValid, State.evtData, ← Option.isSome_iff_exists]

theorem State.txValid_iff_txData : s.txValid = true ↔ ∃ b, s.txData = some b := by
  simp [State.txValid, State.txData, ← Option.isSome_iff_exists]

/-- The beat offered is the first that has not left the event port. -/
theorem State.evtData_eq_head? : s.evtData = (s.eventBeats.drop s.evtTaken).head? := List.head?_drop.symm

/-- The byte offered is the first that has not left the transmit port. -/
theorem State.txData_eq_head? : s.txData = (s.txq.drop s.txTaken).head? := List.head?_drop.symm

end

/-- Settles O9: a transaction other than RESET waits (`step_of_not_inReady`), a consumer's acceptance moves only the
two ports' places, and each port offers what stands at its place. -/
theorem outputsHoldTheNextTransaction : Obligations.OutputsHoldTheNextTransaction := by
  refine ⟨fun s p ps i h hd hi hw => ?_, fun s p => rfl, fun s => ?_⟩
  · obtain ⟨p', hn⟩ := exists_nextTxn_of_decode hd
    exact step_of_not_inReady h hn (rst_eq_false_of_nextTxn hn hi) hw
  · exact ⟨s.inReady_iff, s.evtValid_iff_evtData, s.txValid_iff_txData, s.evtData_eq_head?, s.txData_eq_head?⟩

end Sys2Proof.Machine
end

section
/-! ### O11: RESET (70_reset_and_hazards.md R230, R231; log 1, log 16) -/

namespace Sys2Proof.Machine

theorem exec_reset (s : State) : exec .reset s = .next s.resetBlock := rfl

/-- RESET clears every field of the status port but MODE (R231). -/
theorem State.resetBlock_status (s : State) :
    s.resetBlock.status = if s.cfg.framingMode = .stream then 0x10 else 0x00 :=
  statusFields_reset s.cfg.framingMode

/-- Settles O11: RESET writes `State.resetBlock`, which writes nothing more when done again and leaves both output
ports idle. -/
theorem resetWritesBlockState : Obligations.ResetWritesBlockState := fun s =>
  ⟨s.resetBlock, rfl, exec_reset s, by rw [exec_reset, s.resetBlock_resetBlock], s.resetBlock_status,
    s.resetBlock_evtValid, s.resetBlock_txValid⟩

end Sys2Proof.Machine
end

section
/-! ### O12: the reset values (70_reset_and_hazards.md R231; log 2, log 4) -/

namespace Sys2Proof.Machine

/-- The state at power-up is already as RESET leaves it. -/
theorem State.resetWith_resetBlock (cfg : Config) : (State.resetWith cfg).resetBlock = State.resetWith cfg := rfl

/-- Settles O12: the values are those of `State.resetWith`; since RESET changes nothing there, its output ports are
idle. -/
theorem stateAfterReset : Obligations.StateAfterReset := fun cfg =>
  ⟨rfl, rfl, rfl, rfl, rfl, rfl, rfl, State.resetWith_status cfg,
    (State.resetWith cfg).resetBlock_evtValid, (State.resetWith cfg).resetBlock_txValid,
    by rw [exec_reset, State.resetWith_resetBlock], rfl⟩

end Sys2Proof.Machine
end

section
/-! ### O51: the invariant at reset (70_reset_and_hazards.md R231) -/

namespace Sys2Proof.Machine

/-- The empty buffer is within every capacity (R25). -/
theorem fitsCap_zero (cfg : Config) : fitsCap cfg 0 = true := by
  cases h : cfg.bufCap with
  | none => exact fitsCap_infinite h 0
  | some cap => simp [fitsCap_finite h]

/-- The empty buffer is settled in both modes (R108, R122). -/
theorem bufSettled_nil (mode : FramingMode) : bufSettled mode [] = true := by
  cases mode <;> rfl

theorem State.Inv.resetWith (cfg : Config) : (State.resetWith cfg).Inv where
  capacity := fitsCap_zero cfg
  settled := bufSettled_nil cfg.framingMode
  events _ he := absurd he List.not_mem_nil
  frames := .nil
  evtPort := Nat.le_refl _
  txPort := Nat.le_refl _

/-- Settles O51, by `State.Inv.resetWith`. -/
theorem invariantAtReset : Obligations.InvariantAtReset := State.Inv.resetWith

end Sys2Proof.Machine
end
